-- ==== Sys2Proof/Word.lean ====
section
/-! DEFINITION. The word types of the block: buffer bytes, 16-bit length registers, 32-bit registers (10_state.md R22, R23). -/

namespace Sys2Proof

/-- One byte of a frame, a payload or a buffer (u8 of R9). -/
abbrev Byte := BitVec 8

/-- A 16-bit value (u16 of R9). -/
abbrev Half := BitVec 16

/-- An interface register (u32 of R9). -/
abbrev Word := BitVec 32

end Sys2Proof
end

