-- ==== Sys2Proof/Config.lean ====
section
/-! DEFINITION. What the implementation fixes (00_scope.md R8) and what the spec leaves open: the two OPEN parameters
CRC8_FN and CODEC_BASE, and the free value a draw reads. The three opaque constants have no body: nothing can be proved
about their values. -/

namespace Sys2Proof.Config

/-- CRC8_FN (R122): any total function from a byte sequence to a byte. OPEN; log 1. -/
opaque crc8Fn : List Byte → Byte

/-- CODEC_BASE (R60): the bus address of offset 0 of the window. OPEN; log 2. -/
opaque codecBase : Nat

/-- The n-th draw: the unspecified value a host read returns where R46 and R216 call it unspecified. A FREE VALUE; log 4. -/
opaque draw : Nat → Word

/-- RXB_SIZE (R8). -/
abbrev rxbSize : Nat := 512

/-- TXB_SIZE (R8). -/
abbrev txbSize : Nat := 512

/-- PLB_SIZE (R8). -/
abbrev plbSize : Nat := 256

/-- BAM_WIDTH (R8). -/
abbrev bamWidth : Nat := 104

/-- The size of the host bus window (R60). -/
abbrev windowSize : Nat := 4096

end Sys2Proof.Config
end

