-- ==== Sys2Proof/Machine/State.lean ====
section
/-! DEFINITION. The state of the block, its error codes, the reasons the model stops, and the state after reset
(10_state.md; 70_reset_and_hazards.md R210, R211). -/

namespace Sys2Proof.Machine

/-- The three buffers (R23). -/
inductive Buffer where
  | rxb
  | txb
  | plb
deriving DecidableEq, Repr

/-- STATUS.ERR: the error codes of R190. Codes 10 to 15 are never produced, so they have no constructor. -/
inductive ErrCode where
  | ok
  | unknownSyncWord
  | truncatedFrame
  | unsupportedExtendedLength
  | payloadLengthMismatch
  | badCommand
  | badSchema
  | encodePrecondition
  | range
  | notValidated
deriving DecidableEq, Repr

/-- One step of the total order of R68 that the outside world or the CODEC's latency decides. Log 5. -/
inductive Input where
  /-- MemRead(addr, n): the HOST reads n bytes at a bus address (R11, R62) -/
  | read (addr n : Nat)
  /-- MemWrite(addr, n, v): the HOST writes (R11, R62) -/
  | write (addr n : Nat) (v : Word)
  /-- the CODEC's turn (R214, R215) -/
  | codec
  /-- the rst input (R210) -/
  | rst
deriving DecidableEq, Repr

/-- The bytes of the buffers, by window offset (R23, R60). A listed offset is a byte whose written bit is set (R46), an
unlisted one a byte whose written bit is clear: it reads as no value. Log 3. -/
abbrev Memory := List Host.Cell

/-- The state. Fields in the order of R22, then the hidden ones, then the model's own. -/
structure State where
  /-- CMD (R24) -/
  cmd : Word
  /-- STATUS.BUSY (R25) -/
  busy : Bool
  /-- STATUS.DONE (R25) -/
  done : Bool
  /-- STATUS.ERR (R25, R190) -/
  err : ErrCode
  /-- STATUS.OVERRUN (R25) -/
  overrun : Bool
  /-- STATUS.DVALID (R25) -/
  dvalid : Bool
  /-- STATUS.RVALID (R25) -/
  rvalid : Bool
  /-- STATUS.HVALID (R25) -/
  hvalid : Bool
  /-- STATUS.TVALID (R25) -/
  tvalid : Bool
  /-- STATUS.PLVAL (R25) -/
  plval : Bool
  /-- RX_LEN.LEN (R27); the reserved bits read 0 -/
  rxLen : Half
  /-- TX_LEN (R28); bits 31:16 are 0 -/
  txLen : Half
  /-- PL_LEN.LEN (R29); the reserved bits read 0 -/
  plLen : Byte
  /-- ENC_HDR.ID (R30) -/
  encId : Byte
  /-- ENC_HDR.FLAGS (R30) -/
  encFlags : Byte
  /-- ENC_HDR.CSR (R30) -/
  encCsr : Byte
  /-- CRC_OFF.OFF (R31); the reserved bits read 0 -/
  crcOff : Half
  /-- CRC_LEN.LEN (R31); the reserved bits read 0 -/
  crcLen : Half
  /-- CRC_RESULT (R32) -/
  crcResult : Word
  /-- D_SYNC (R33) -/
  dSync : Word
  /-- D_HDR (R34) -/
  dHdr : Word
  /-- D_HCRC_RX (R35) -/
  dHcrcRx : Word
  /-- D_HCRC_CALC (R35) -/
  dHcrcCalc : Word
  /-- D_TCRC_RX (R36) -/
  dTcrcRx : Word
  /-- D_TCRC_CALC (R36) -/
  dTcrcCalc : Word
  /-- D_FLEN (R37) -/
  dFlen : Word
  /-- D_ROUTE (R38) -/
  dRoute : Word
  /-- P_INFO (R39) -/
  pInfo : Word
  /-- REC[0..31] (R40); REC_WORDS is 32 (R8) -/
  record : Vector Word 32
  /-- PENDING (R45), hidden -/
  pending : Option Word
  /-- RXB, TXB and PLB with their written bits (R23, R46) -/
  mem : Memory
  /-- the model's own: the steps still to come (log 5) -/
  inputs : List Input
  /-- the model's own: the value the last host read returned (log 6) -/
  hostRdata : Word
  /-- the model's own: how many free values were drawn (log 4) -/
  draws : Nat
deriving DecidableEq, Repr

/-- Why the model stops: the two model faults of R198. -/
inductive Fault where
  /-- ModelFault(UnwrittenRead, b, i) (R11, R46): a command reads byte i of buffer b, which nothing has written since
  reset. Raised by CRC8, CRC32, ENCODE, DECODE, DECODE_PAYLOAD, DECODE_DISPATCH and the csr and schema rows. Safe: on
  the hardware the byte holds an unspecified value and the command goes on. -/
  | unwrittenRead (b : Buffer) (i : Nat)
  /-- ModelFault(BusError, offset) (R63): the HOST makes a wrong-width, misaligned or unmapped access. Raised by the bus
  inputs of the step, by no instruction. Safe: the effect is the platform's. -/
  | busError (offset : BitVec 12)
deriving DecidableEq, Repr

/-- Why an instruction has no meaning here. -/
inductive Refusal where
  /-- an instruction that has no meaning yet. Raised by none: no arm of exec answers it. Safe. -/
  | notModelled (mnemonic : String)
deriving DecidableEq, Repr

/-- What one step or one meaning answers. -/
abbrev Result := Host.Outcome State Fault Refusal

/-- The state right after reset: every register 0, PENDING none (R210), no buffer byte written (R211). The model's own
fields start empty and 0 (DESIGN CHOICE, logs 4, 5 and 6). -/
def State.reset : State where
  cmd := 0
  busy := false
  done := false
  err := .ok
  overrun := false
  dvalid := false
  rvalid := false
  hvalid := false
  tvalid := false
  plval := false
  rxLen := 0
  txLen := 0
  plLen := 0
  encId := 0
  encFlags := 0
  encCsr := 0
  crcOff := 0
  crcLen := 0
  crcResult := 0
  dSync := 0
  dHdr := 0
  dHcrcRx := 0
  dHcrcCalc := 0
  dTcrcRx := 0
  dTcrcCalc := 0
  dFlen := 0
  dRoute := 0
  pInfo := 0
  record := Vector.replicate 32 0
  pending := none
  mem := []
  inputs := []
  hostRdata := 0
  draws := 0

end Sys2Proof.Machine
end

