-- ==== Sys2Proof/Machine/Ops.lean ====
section
/-! DEFINITION. The named operations over the buffers and the two ways a command ends. Every meaning reads and writes
bytes, completes and raises through these. -/

namespace Sys2Proof.Machine

/-! ## Buffer memory -/

/-- The window offset of byte 0 of a buffer (R23). -/
def Buffer.base : Buffer → Nat
  | .rxb => 0x400
  | .txb => 0x600
  | .plb => 0x800

/-- The size of a buffer (R8, R23). -/
def Buffer.size : Buffer → Nat
  | .rxb => Config.rxbSize
  | .txb => Config.txbSize
  | .plb => Config.plbSize

/-- The canonical form: offsets strictly rising, and every one inside a buffer (0x400 to 0x8FF, R23). An unlisted offset
reads as no value, so no entry can equal what an unlisted offset reads as. -/
abbrev Memory.wf (m : Memory) : Prop :=
  m.Pairwise (fun a b => a.1 < b.1) ∧ ∀ c ∈ m, 0x400 ≤ c.1 ∧ c.1 < 0x900

/-- The byte at a window offset; none when its written bit is clear (R46). -/
def Memory.get (m : Memory) (a : Nat) : Option Byte :=
  match m with
  | [] => none
  | (x, v) :: r => if x = a then some v else Memory.get r a

/-- Store a byte and set its written bit, keeping the canonical form. -/
def Memory.set (m : Memory) (a : Nat) (v : Byte) : Memory :=
  match m with
  | [] => [(a, v)]
  | (x, y) :: r =>
    if a < x then (a, v) :: (x, y) :: r
    else if a = x then (a, v) :: r
    else (x, y) :: Memory.set r a v

/-- Store consecutive bytes. -/
def Memory.setMany (m : Memory) (a : Nat) (bytes : List Byte) : Memory :=
  match bytes with
  | [] => m
  | b :: bs => Memory.setMany (m.set a b) (a + 1) bs

/-- Byte i of a buffer, if written. -/
def State.byte (s : State) (b : Buffer) (i : Nat) : Option Byte :=
  s.mem.get (b.base + i)

/-- Bytes a to a+n-1 of a buffer, or the model fault of the first unwritten one. -/
def Memory.read (m : Memory) (b : Buffer) (a : Nat) : Nat → Except Fault (List Byte)
  | 0 => .ok []
  | n + 1 =>
    match m.get (b.base + a) with
    | none => .error (.unwrittenRead b a)
    | some v =>
      match Memory.read m b (a + 1) n with
      | .error f => .error f
      | .ok vs => .ok (v :: vs)

/-- A CODEC read of bytes a to a+n-1 of a buffer: the first unwritten one is a model fault (R11, R46). -/
def readBytes (s : State) (b : Buffer) (a n : Nat) : Except Fault (List Byte) :=
  s.mem.read b a n

/-- A CODEC write of bytes from index a on; their written bits are set (R46). -/
def State.writeBytes (s : State) (b : Buffer) (a : Nat) (bytes : List Byte) : State :=
  { s with mem := s.mem.setMany (b.base + a) bytes }

/-! ## Completion -/

/-- How every command ends: BUSY 0, DONE 1, ERR the code, PENDING none (R193, R194). -/
def State.finish (s : State) (e : ErrCode) : State :=
  { s with busy := false, done := true, err := e, pending := none }

/-- `complete(OK)` (R193). -/
def complete (s : State) : Result :=
  .next (s.finish .ok)

/-- `raise E` (R194), the block's only form of trap entry: no pc is saved, no vector is taken, no mode changes. The
writes the command's rule makes before the raise are in s. There is no return-from-trap operation beside it: R195 says
that none exists, and the next accepted command clears DONE and runs normally. -/
def raise (e : ErrCode) (s : State) : Result :=
  .next (s.finish e)

/-- Go on with the bytes of a CODEC read, or stop with its model fault. -/
def withRead {α : Type} (r : Except Fault α) (go : α → Result) : Result :=
  match r with
  | .error f => .fault f
  | .ok x => go x

/-- The rst step (R210, R211): every register and buffer as after reset. The model's own fields are kept, for they are
not the block's (log 17). -/
def State.rst (s : State) : State :=
  { State.reset with inputs := s.inputs, hostRdata := s.hostRdata, draws := s.draws }

/-- The issue of a command (R24, R45). -/
def State.issue (s : State) (w : Word) : State :=
  { s with cmd := w, busy := true, done := false, pending := some w }

end Sys2Proof.Machine
end

