-- ==== Sys2Proof/Machine/Flags.lean ====
section
/-! DEFINITION. The flags as the host reads them in STATUS (10_state.md R25, R41), and the groups of flags that the
command rules write together. -/

namespace Sys2Proof.Machine

/-- The number of an error code (R190). -/
def ErrCode.code : ErrCode → BitVec 4
  | .ok => 0
  | .unknownSyncWord => 1
  | .truncatedFrame => 2
  | .unsupportedExtendedLength => 3
  | .payloadLengthMismatch => 4
  | .badCommand => 5
  | .badSchema => 6
  | .encodePrecondition => 7
  | .range => 8
  | .notValidated => 9

/-- A flag at bit n of a register. -/
def flagBit (b : Bool) (n : Nat) : Word :=
  if b then 1 <<< n else 0

/-- The STATUS register (R25). -/
def State.statusWord (s : State) : Word :=
  flagBit s.busy 0 ||| flagBit s.done 1 ||| (s.err.code.setWidth 32 <<< 4) ||| flagBit s.overrun 8
    ||| flagBit s.dvalid 9 ||| flagBit s.rvalid 10 ||| flagBit s.hvalid 11 ||| flagBit s.tvalid 12
    ||| flagBit s.plval 13

/-- The STATUS bits that are a draw while BUSY = 1: 7:4 and 13:9 (R216). -/
def statusDrawMask : Word := 0x3EF0

/-- The flags of a committed frame (R148): DVALID 1, HVALID, TVALID, and PLVAL their conjunction. -/
def State.withFrameFlags (s : State) (h t : Bool) : State :=
  { s with dvalid := true, hvalid := h, tvalid := t, plval := h && t }

/-- The flags after a structural or Range error of a decode (R149). -/
def State.clearFrameFlags (s : State) : State :=
  { s with dvalid := false, hvalid := false, tvalid := false, plval := false }

end Sys2Proof.Machine
end

