-- ==== Sys2Proof/Machine/Bus.lean ====
section
/-! DEFINITION. The HOST's bus accesses (10_state.md R22 to R42; 20_memory.md R60 to R67; 70_reset_and_hazards.md R216). -/

namespace Sys2Proof.Machine

/-- The registers of R22. -/
inductive Reg where
  | cmd
  | status
  | rxLen
  | txLen
  | plLen
  | encHdr
  | crcOff
  | crcLen
  | crcResult
  | dSync
  | dHdr
  | dHcrcRx
  | dHcrcCalc
  | dTcrcRx
  | dTcrcCalc
  | dFlen
  | dRoute
  | pInfo
  | record (k : Fin 32)
deriving DecidableEq, Repr

/-- The registers at offsets 0x000 to 0x044, in order (R22). -/
def regTable : List Reg :=
  [.cmd, .status, .rxLen, .txLen, .plLen, .encHdr, .crcOff, .crcLen, .crcResult,
   .dSync, .dHdr, .dHcrcRx, .dHcrcCalc, .dTcrcRx, .dTcrcCalc, .dFlen, .dRoute, .pInfo]

/-- The register at an aligned offset (R22); none where it is unmapped (R63). -/
def Reg.atOffset (off : Nat) : Option Reg :=
  if off < 0x100 then regTable[off / 4]?
  else if h : (off - 0x100) / 4 < 32 then some (.record ⟨(off - 0x100) / 4, h⟩)
  else none

/-- The offset of a register (R22). -/
def Reg.offset : Reg → Nat
  | .cmd => 0x000
  | .status => 0x004
  | .rxLen => 0x008
  | .txLen => 0x00C
  | .plLen => 0x010
  | .encHdr => 0x014
  | .crcOff => 0x018
  | .crcLen => 0x01C
  | .crcResult => 0x020
  | .dSync => 0x024
  | .dHdr => 0x028
  | .dHcrcRx => 0x02C
  | .dHcrcCalc => 0x030
  | .dTcrcRx => 0x034
  | .dTcrcCalc => 0x038
  | .dFlen => 0x03C
  | .dRoute => 0x040
  | .pInfo => 0x044
  | .record k => 0x100 + 4 * k.val

/-- What a legal access reaches. -/
inductive Target where
  | reg (r : Reg)
  | byte (b : Buffer) (i : Nat)
deriving DecidableEq, Repr

/-- The target of an access of n bytes at a window offset; none for one the bus refuses (R62, R63). -/
def target (off n : Nat) : Option Target :=
  if off < 0x400 then
    if n = 4 ∧ off % 4 = 0 then (Reg.atOffset off).map .reg else none
  else if n ≠ 1 then none
  else if off < 0x600 then some (.byte .rxb (off - 0x400))
  else if off < 0x800 then some (.byte .txb (off - 0x600))
  else if off < 0x900 then some (.byte .plb (off - 0x800))
  else none

/-- The value a register holds, as the host reads it while BUSY = 0; reserved bits read 0 (R22 to R40). -/
def State.regWord (s : State) : Reg → Word
  | .cmd => s.cmd
  | .status => s.statusWord
  | .rxLen => s.rxLen.setWidth 32
  | .txLen => s.txLen.setWidth 32
  | .plLen => s.plLen.setWidth 32
  | .encHdr => s.encId.setWidth 32 ||| (s.encFlags.setWidth 32 <<< 8) ||| (s.encCsr.setWidth 32 <<< 16)
  | .crcOff => s.crcOff.setWidth 32
  | .crcLen => s.crcLen.setWidth 32
  | .crcResult => s.crcResult
  | .dSync => s.dSync
  | .dHdr => s.dHdr
  | .dHcrcRx => s.dHcrcRx
  | .dHcrcCalc => s.dHcrcCalc
  | .dTcrcRx => s.dTcrcRx
  | .dTcrcCalc => s.dTcrcCalc
  | .dFlen => s.dFlen
  | .dRoute => s.dRoute
  | .pInfo => s.pInfo
  | .record k => s.record[k]

/-- The bits of a register whose value a read while BUSY = 1 leaves unspecified (R216). Log 8. -/
def Reg.busyDrawMask : Reg → Word
  | .cmd => 0
  | .status => statusDrawMask
  | .rxLen => 0
  | .encHdr => 0
  | .crcOff => 0
  | .crcLen => 0
  | .txLen => 0xFFFFFFFF
  | .plLen => 0xFFFFFFFF
  | .crcResult => 0xFFFFFFFF
  | .dSync => 0xFFFFFFFF
  | .dHdr => 0xFFFFFFFF
  | .dHcrcRx => 0xFFFFFFFF
  | .dHcrcCalc => 0xFFFFFFFF
  | .dTcrcRx => 0xFFFFFFFF
  | .dTcrcCalc => 0xFFFFFFFF
  | .dFlen => 0xFFFFFFFF
  | .dRoute => 0xFFFFFFFF
  | .pInfo => 0xFFFFFFFF
  | .record _ => 0xFFFFFFFF

/-- A read that returns `known` in the bits outside `mask` and a draw in those of `mask`. -/
def State.readDraw (s : State) (known mask : Word) : State :=
  { s with
    hostRdata := (known &&& ~~~mask) ||| (Config.draw s.draws &&& mask)
    draws := s.draws + 1 }

/-- A read that returns a value the rules fix. -/
def State.readKnown (s : State) (v : Word) : State :=
  { s with hostRdata := v }

/-- A host read of a register (R67, R216). -/
def State.readReg (s : State) (r : Reg) : State :=
  if s.busy && r.busyDrawMask != 0 then s.readDraw (s.regWord r) r.busyDrawMask
  else s.readKnown (s.regWord r)

/-- A host read of a buffer byte: a draw if it is unwritten (R46), or if it is in TXB or PLB while BUSY = 1 (R216). -/
def State.readByte (s : State) (b : Buffer) (i : Nat) : State :=
  match s.byte b i with
  | some v => if s.busy && b != .rxb then s.readDraw 0 0xFF else s.readKnown (v.setWidth 32)
  | none => s.readDraw 0 0xFF

/-- A host write of a register while BUSY = 0 (R22 to R31, R67); a read-only register stores nothing. -/
def State.writeReg (s : State) (r : Reg) (v : Word) : State :=
  match r with
  | .cmd => s.issue v
  | .status => if v.getLsbD 8 then { s with overrun := false } else s
  | .rxLen => { s with rxLen := v.extractLsb' 0 16 }
  | .plLen => { s with plLen := v.extractLsb' 0 8, plval := false }
  | .encHdr => { s with encId := v.extractLsb' 0 8, encFlags := v.extractLsb' 8 8, encCsr := v.extractLsb' 16 8 }
  | .crcOff => { s with crcOff := v.extractLsb' 0 16 }
  | .crcLen => { s with crcLen := v.extractLsb' 0 16 }
  | .txLen => s
  | .crcResult => s
  | .dSync => s
  | .dHdr => s
  | .dHcrcRx => s
  | .dHcrcCalc => s
  | .dTcrcRx => s
  | .dTcrcCalc => s
  | .dFlen => s
  | .dRoute => s
  | .pInfo => s
  | .record _ => s

/-- A host write of a buffer byte while BUSY = 0 (R42, R46, R67); TXB stores nothing. -/
def State.writeByte (s : State) (b : Buffer) (i : Nat) (v : Byte) : State :=
  match b with
  | .rxb => s.writeBytes .rxb i [v]
  | .txb => s
  | .plb => { s.writeBytes .plb i [v] with plval := false }

/-- MemRead at a window offset. -/
def hostRead (off : BitVec 12) (n : Nat) (s : State) : Result :=
  match target off.toNat n with
  | none => .fault (.busError off)
  | some (.reg r) => .next (s.readReg r)
  | some (.byte b i) => .next (s.readByte b i)

/-- MemWrite at a window offset. While BUSY = 1 the write is ignored and sets OVERRUN (R216). -/
def hostWrite (off : BitVec 12) (n : Nat) (v : Word) (s : State) : Result :=
  match target off.toNat n with
  | none => .fault (.busError off)
  | some t =>
    if s.busy then .next { s with overrun := true }
    else
      match t with
      | .reg r => .next (s.writeReg r v)
      | .byte b i => .next (s.writeByte b i (v.extractLsb' 0 8))

/-- The window offset of a bus address, if it is in the window (R60). -/
def windowOffset (addr : Nat) : Option (BitVec 12) :=
  if Config.codecBase ≤ addr ∧ addr < Config.codecBase + Config.windowSize then
    some (BitVec.ofNat 12 (addr - Config.codecBase))
  else none

/-- An access at a bus address: one outside the window is not this block's and changes nothing here. Log 10. -/
def busAccess (addr : Nat) (s : State) (go : BitVec 12 → Result) : Result :=
  match windowOffset addr with
  | none => .next s
  | some off => go off

end Sys2Proof.Machine
end

