-- ==== Sys2Proof/Machine/Bytes.lean ====
section
/-! DEFINITION. Little-endian byte order, decided once (00_scope.md R10; 20_memory.md R64). -/

namespace Sys2Proof.Machine

/-- The value of a little-endian byte sequence: LE16, LE32 and LEw of R10, zero-extended, on a sequence of that length. -/
def leValue : List Byte → Word
  | [] => 0
  | b :: bs => b.setWidth 32 ||| (leValue bs <<< 8)

/-- The n low-order bytes of v, least significant first: LEbytes_n of R132 and what PutLEw of R10 writes. -/
def leBytes : Nat → Word → List Byte
  | 0, _ => []
  | n + 1, v => v.setWidth 8 :: leBytes n (v >>> 8)

/-- B[a..a+n) of R10. -/
def slice (bytes : List Byte) (a n : Nat) : List Byte :=
  (bytes.drop a).take n

end Sys2Proof.Machine
end

