-- ==== Sys2Proof/Syntax.lean ====
section
/-! DEFINITION. The instructions: one constructor per row of spec/opcode_table.json. The rows have four formats: command
words (30_encoding.md R100 to R104), wire frames (R80, R81), csrAddress classes (43_demux.md R163) and payload schemas
(R102). -/

namespace Sys2Proof

/-- The four legal sync words (R81). A frame's direction, checksum width and checksum function follow from it (R83). -/
inductive SyncWord where
  | requestCrc8
  | requestCrc32
  | responseCrc8
  | responseCrc32
deriving DecidableEq, Repr

/-- The three payload schemas (R102, R170). -/
inductive Schema where
  | motor
  | light
  | bam
deriving DecidableEq, Repr

/-- The csrAddress classes of R163. -/
inductive CsrClass where
  | deviceReg
  | custom
  | configSize
  | configData
  | nodeId
  | groupId
  | deviceId
  | utility
  | reservedF
deriving DecidableEq, Repr

/-- The contents of a wire frame besides its sync word (R80). payloadLength is the payload's length, so it is not a field
of its own. A checksum is held zero-extended, as the block's registers hold it (R35, R36). -/
structure Frame where
  /-- the id byte at offset 2 (R85) -/
  id : Byte
  /-- the flags byte at offset 3 (R86) -/
  flags : Byte
  /-- the csrAddress byte at offset 4 (R87) -/
  csr : Byte
  /-- the header checksum as stored at offset 6 (R89) -/
  hcrc : Word
  /-- the payload, from offset 6+w (R90) -/
  payload : List Byte
  /-- the total checksum as stored at offset payloadEnd (R91) -/
  tcrc : Word
deriving DecidableEq, Repr

/-- One constructor per row of spec/opcode_table.json. Logs 11 to 13 say what it is to run a row that is no command. -/
inductive Instr where
  /-- NOP, OP 0 (R197) -/
  | nop
  /-- CRC8, OP 1 (R124) -/
  | crc8
  /-- CRC32, OP 2 (R125) -/
  | crc32
  /-- ENCODE, OP 3 (R131); values 2 and 3 of SYNCSEL decode too and fail (R130) -/
  | encode (syncsel : BitVec 2)
  /-- DECODE, OP 4 (R140) -/
  | decode
  /-- DECODE_PAYLOAD, OP 5 (R175); values 3 to 15 of SCHEMA decode too and fail (R191) -/
  | decodePayload (schema : BitVec 4)
  /-- DECODE_DISPATCH, OP 6 (R180); SCHEMA as for DECODE_PAYLOAD -/
  | decodeDispatch (schema : BitVec 4)
  /-- a frame with sync word RequestCrc8 (R81) -/
  | requestCrc8 (f : Frame)
  /-- a frame with sync word RequestCrc32 (R81) -/
  | requestCrc32 (f : Frame)
  /-- a frame with sync word ResponseCrc8 (R81) -/
  | responseCrc8 (f : Frame)
  /-- a frame with sync word ResponseCrc32 (R81) -/
  | responseCrc32 (f : Frame)
  /-- csrAddress 0x00 to 0xEF (R163, class 0) -/
  | deviceReg (csr : Byte)
  /-- csrAddress 0xF0 (R163, class 1) -/
  | custom
  /-- csrAddress 0xF5 (R163, class 2) -/
  | configSize
  /-- csrAddress 0xF7 (R163, class 3) -/
  | configData
  /-- csrAddress 0xFB (R163, class 4) -/
  | nodeId
  /-- csrAddress 0xFC (R163, class 5) -/
  | groupId
  /-- csrAddress 0xFD (R163, class 6) -/
  | deviceId
  /-- csrAddress 0xFE (R163, class 7) -/
  | utility
  /-- csrAddress 0xF1 to 0xF4, 0xF6, 0xF8 to 0xFA, 0xFF (R163, class 8) -/
  | reservedF (csr : Byte)
  /-- schema selector 0 (R171) -/
  | motor
  /-- schema selector 1 (R172) -/
  | light
  /-- schema selector 2 (R173) -/
  | bam
deriving DecidableEq, Repr

/-- The four encoding spaces of the opcode table's formats. -/
inductive Format where
  | cmd
  | frame
  | csr
  | schema
deriving DecidableEq, Repr

/-- An encoded instruction, in the encoding space of its format. -/
inductive Code where
  /-- a command word as written to CMD (R24) -/
  | cmd (w : Word)
  /-- the bytes of a receive buffer, from offset 0 (R60) -/
  | frame (bytes : List Byte)
  /-- a csrAddress byte (R87) -/
  | csr (b : Byte)
  /-- the selector CMD.SCHEMA (R102) -/
  | schema (k : BitVec 4)
deriving DecidableEq, Repr

end Sys2Proof
end

