-- ==== Sys2Proof/Decode.lean ====
section
/-! DEFINITION. The decoder of each of the four formats, total and rejecting by name, and after it the encoder, both
written from 30_encoding.md. A frame decoder is written once over a byte reader, so that the machine (which faults on a
byte never written) and the pure decoder of byte lists run the same stages. -/

namespace Sys2Proof
open Machine

/-! ## Selector tables -/

/-- `LE16(frame,0)` of each sync word (R81). -/
def SyncWord.value : SyncWord → Half
  | .requestCrc8 => 0xAFFA
  | .requestCrc32 => 0x5FF5
  | .responseCrc8 => 0xDFFD
  | .responseCrc32 => 0x0FF0

/-- w, the checksum width in bytes (R83). -/
def SyncWord.width : SyncWord → Nat
  | .requestCrc8 => 1
  | .requestCrc32 => 4
  | .responseCrc8 => 1
  | .responseCrc32 => 4

/-- DIR: true for a response (R33, R81). -/
def SyncWord.isResponse : SyncWord → Bool
  | .requestCrc8 => false
  | .requestCrc32 => false
  | .responseCrc8 => true
  | .responseCrc32 => true

/-- The sync detector's comparison (R82, R142). -/
def SyncWord.ofValue (v : Half) : Option SyncWord :=
  if v = 0xAFFA then some .requestCrc8
  else if v = 0x5FF5 then some .requestCrc32
  else if v = 0xDFFD then some .responseCrc8
  else if v = 0x0FF0 then some .responseCrc32
  else none

/-- CMD.SYNCSEL (R101). -/
def SyncWord.ofSel (sel : BitVec 2) : SyncWord :=
  if sel = 0 then .requestCrc8
  else if sel = 1 then .requestCrc32
  else if sel = 2 then .responseCrc8
  else .responseCrc32

/-- The schema selector (R102). -/
def Schema.sel : Schema → BitVec 4
  | .motor => 0
  | .light => 1
  | .bam => 2

/-- CMD.SCHEMA: 3 to 15 are reserved (R102). -/
def Schema.ofSel (k : BitVec 4) : Option Schema :=
  if k = 0 then some .motor
  else if k = 1 then some .light
  else if k = 2 then some .bam
  else none

/-- CsrClass of R163. -/
def CsrClass.ofByte (b : Byte) : CsrClass :=
  if b.toNat < 0xF0 then .deviceReg
  else if b = 0xF0 then .custom
  else if b = 0xF5 then .configSize
  else if b = 0xF7 then .configData
  else if b = 0xFB then .nodeId
  else if b = 0xFC then .groupId
  else if b = 0xFD then .deviceId
  else if b = 0xFE then .utility
  else .reservedF

/-- The CSRCLASS code (R163). -/
def CsrClass.code : CsrClass → BitVec 4
  | .deviceReg => 0
  | .custom => 1
  | .configSize => 2
  | .configData => 3
  | .nodeId => 4
  | .groupId => 5
  | .deviceId => 6
  | .utility => 7
  | .reservedF => 8

/-- The frame row of a sync word. -/
def Instr.ofFrame : SyncWord → Frame → Instr
  | .requestCrc8, f => .requestCrc8 f
  | .requestCrc32, f => .requestCrc32 f
  | .responseCrc8, f => .responseCrc8 f
  | .responseCrc32, f => .responseCrc32 f

/-- The csr row of a csrAddress byte; every byte has one (R163). -/
def Instr.ofCsr (b : Byte) : Instr :=
  match CsrClass.ofByte b with
  | .deviceReg => .deviceReg b
  | .custom => .custom
  | .configSize => .configSize
  | .configData => .configData
  | .nodeId => .nodeId
  | .groupId => .groupId
  | .deviceId => .deviceId
  | .utility => .utility
  | .reservedF => .reservedF b

/-- The schema row of a schema. -/
def Instr.ofSchema : Schema → Instr
  | .motor => .motor
  | .light => .light
  | .bam => .bam

/-- The format of an instruction's row. -/
def Instr.format : Instr → Format
  | .nop => .cmd
  | .crc8 => .cmd
  | .crc32 => .cmd
  | .encode _ => .cmd
  | .decode => .cmd
  | .decodePayload _ => .cmd
  | .decodeDispatch _ => .cmd
  | .requestCrc8 _ => .frame
  | .requestCrc32 _ => .frame
  | .responseCrc8 _ => .frame
  | .responseCrc32 _ => .frame
  | .deviceReg _ => .csr
  | .custom => .csr
  | .configSize => .csr
  | .configData => .csr
  | .nodeId => .csr
  | .groupId => .csr
  | .deviceId => .csr
  | .utility => .csr
  | .reservedF _ => .csr
  | .motor => .schema
  | .light => .schema
  | .bam => .schema

/-! ## Rejections -/

/-- Why a frame is not decoded: the structural errors of R190, with what R149 records of each. -/
inductive FrameReject where
  /-- the buffer is shorter than the `required` bytes; `sync` is the legal sync word read before the check, if any
  (R142, R143, R146) -/
  | truncated (sync : Option SyncWord) (required : Nat)
  /-- no legal sync word (R142) -/
  | unknownSync (v : Half)
  /-- payloadLength 0xFF (R144) -/
  | extendedLength (sync : SyncWord)
deriving DecidableEq, Repr

/-- Why a code decodes to no instruction. -/
inductive Reject where
  /-- a reserved or illegal command word (R104) -/
  | badCommand (w : Word)
  /-- not a frame -/
  | frame (r : FrameReject)
  /-- schema selector 3 to 15 (R102) -/
  | reservedSchema (k : BitVec 4)
deriving DecidableEq, Repr

/-! ## Decoders -/

/-- A command word (R24, R100 to R104): the first check of R191. SYNCSEL 2, 3 and SCHEMA 3 to 15 are operand values. -/
def decodeCmd (w : Word) : Except Reject Instr :=
  let op := w.extractLsb' 0 4
  let syncsel := w.extractLsb' 4 2
  let schema := w.extractLsb' 8 4
  if w.extractLsb' 6 2 ≠ 0 ∨ w.extractLsb' 12 20 ≠ 0 then .error (.badCommand w)
  else if syncsel ≠ 0 ∧ op ≠ 3 then .error (.badCommand w)
  else if schema ≠ 0 ∧ op ≠ 5 ∧ op ≠ 6 then .error (.badCommand w)
  else if op = 0 then .ok .nop
  else if op = 1 then .ok .crc8
  else if op = 2 then .ok .crc32
  else if op = 3 then .ok (.encode syncsel)
  else if op = 4 then .ok .decode
  else if op = 5 then .ok (.decodePayload schema)
  else if op = 6 then .ok (.decodeDispatch schema)
  else .error (.badCommand w)

/-- The decode stages after the header is read (R144, R146). The reads are those of R153, in its order; log 7. -/
def frameAfterHeader {ε : Type} (k : SyncWord) (n : Nat) (rd : Nat → Nat → Except ε (List Byte))
    (id flags csr len : Byte) : Except ε (Except FrameReject (SyncWord × Frame)) :=
  let w := k.width
  let L := len.toNat
  if len = 0xFF then .ok (.error (.extendedLength k))
  else if n < 6 + w + L + w then .ok (.error (.truncated (some k) (6 + w + L + w)))
  else do
    let hs ← rd 6 w
    let p ← rd (6 + w) L
    let ts ← rd (6 + w + L) w
    .ok (.ok (k, { id := id, flags := flags, csr := csr, hcrc := leValue hs, payload := p, tcrc := leValue ts }))

/-- The decode stages after the sync word is known (R143). -/
def frameAfterSync {ε : Type} (k : SyncWord) (n : Nat) (rd : Nat → Nat → Except ε (List Byte)) :
    Except ε (Except FrameReject (SyncWord × Frame)) :=
  if n < 6 + 2 * k.width then .ok (.error (.truncated (some k) (6 + 2 * k.width)))
  else do
    let h ← rd 2 4
    frameAfterHeader k n rd (h.getD 0 0) (h.getD 1 0) (h.getD 2 0) (h.getD 3 0)

/-- The stages of R140 on a buffer of n bytes, from the n < 2 check on. `rd a m` reads m bytes at offset a. -/
def decodeFrameFrom {ε : Type} (n : Nat) (rd : Nat → Nat → Except ε (List Byte)) :
    Except ε (Except FrameReject (SyncWord × Frame)) :=
  if n < 2 then .ok (.error (.truncated none 2))
  else do
    let b ← rd 0 2
    let v : Half := (leValue b).setWidth 16
    match SyncWord.ofValue v with
    | none => .ok (.error (.unknownSync v))
    | some k => frameAfterSync k n rd

/-- A receive buffer's bytes as a frame; bytes after the frame are surplus (R146). -/
def decodeFrame (bytes : List Byte) : Except FrameReject (SyncWord × Frame) :=
  match decodeFrameFrom (ε := Empty) bytes.length (fun a n => .ok (slice bytes a n)) with
  | .error e => nomatch e
  | .ok r => r

/-- A code of any format. -/
def decode : Code → Except Reject Instr
  | .cmd w => decodeCmd w
  | .frame bytes =>
    match decodeFrame bytes with
    | .ok (k, f) => .ok (Instr.ofFrame k f)
    | .error r => .error (.frame r)
  | .csr b => .ok (Instr.ofCsr b)
  | .schema k =>
    match Schema.ofSel k with
    | some s => .ok (Instr.ofSchema s)
    | none => .error (.reservedSchema k)

/-! ## The encoder -/

/-- The command word `zext_32(OP) OR (SYNCSEL << 4) OR (SCHEMA << 8)` (R103). -/
def cmdWord (op : BitVec 4) (syncsel : BitVec 2) (schema : BitVec 4) : Word :=
  op.setWidth 32 ||| (syncsel.setWidth 32 <<< 4) ||| (schema.setWidth 32 <<< 8)

/-- Bytes 0 to 5 of a frame (R80). -/
def headerBytes (k : SyncWord) (id flags csr : Byte) (L : Nat) : List Byte :=
  [k.value.extractLsb' 0 8, k.value.extractLsb' 8 8, id, flags, csr, BitVec.ofNat 8 L]

/-- The bytes of a frame in wire order (R80). -/
def encodeFrame (k : SyncWord) (f : Frame) : List Byte :=
  headerBytes k f.id f.flags f.csr f.payload.length
    ++ leBytes k.width f.hcrc ++ f.payload ++ leBytes k.width f.tcrc

/-- The code of an instruction. -/
def encode : Instr → Code
  | .nop => .cmd (cmdWord 0 0 0)
  | .crc8 => .cmd (cmdWord 1 0 0)
  | .crc32 => .cmd (cmdWord 2 0 0)
  | .encode syncsel => .cmd (cmdWord 3 syncsel 0)
  | .decode => .cmd (cmdWord 4 0 0)
  | .decodePayload schema => .cmd (cmdWord 5 0 schema)
  | .decodeDispatch schema => .cmd (cmdWord 6 0 schema)
  | .requestCrc8 f => .frame (encodeFrame .requestCrc8 f)
  | .requestCrc32 f => .frame (encodeFrame .requestCrc32 f)
  | .responseCrc8 f => .frame (encodeFrame .responseCrc8 f)
  | .responseCrc32 f => .frame (encodeFrame .responseCrc32 f)
  | .deviceReg b => .csr b
  | .custom => .csr 0xF0
  | .configSize => .csr 0xF5
  | .configData => .csr 0xF7
  | .nodeId => .csr 0xFB
  | .groupId => .csr 0xFC
  | .deviceId => .csr 0xFD
  | .utility => .csr 0xFE
  | .reservedF b => .csr b
  | .motor => .schema 0
  | .light => .schema 1
  | .bam => .schema 2

/-- The format of a code. -/
def Code.format : Code → Format
  | .cmd _ => .cmd
  | .frame _ => .frame
  | .csr _ => .csr
  | .schema _ => .schema

/-- How many bytes a code takes in its own encoding space: a command word 4, a frame its bytes, a csrAddress 1; the
4-bit selector is counted as the one byte that holds it. -/
def Code.size : Code → Nat
  | .cmd _ => 4
  | .frame bytes => bytes.length
  | .csr _ => 1
  | .schema _ => 1

/-! ## Words as spec/opcode_table.json numbers them -/

/-- The code of a table word of nbits bits. The four formats are separate encoding spaces and a bare word does not name
its space; the row's size does, as log 14 says. The bytes of a frame after its sync word are 0, so it is a frame of
payload length 0, whole. -/
def tableCode (nbits w : Nat) : Code :=
  if 24 < nbits then .cmd (BitVec.ofNat 32 w)
  else if 16 < nbits then .schema (BitVec.ofNat 4 w)
  else if 8 < nbits then
    match SyncWord.ofValue (BitVec.ofNat 16 w) with
    | some k => .frame (leBytes 2 (BitVec.ofNat 32 w) ++ List.replicate (4 + 2 * k.width) 0)
    | none =>
      if w < 512 ∧ 0xF0 ≤ w % 256 then .csr (BitVec.ofNat 8 w) else .schema (BitVec.ofNat 4 w)
  else if 4 < nbits then
    if w = 1 ∨ w = 2 then .schema (BitVec.ofNat 4 w) else .csr (BitVec.ofNat 8 w)
  else .schema (BitVec.ofNat 4 w)

/-- What the decoder reads from a table word. -/
def decodeTableWord (nbits w : Nat) : Option Instr :=
  match decode (tableCode nbits w) with
  | .ok i => some i
  | .error _ => none

end Sys2Proof
end

