-- ==== Sys2Proof/Machine/Crc.lean ====
section
/-! DEFINITION. The two checksum functions of the checksum engine (40_checksum.md R120 to R123), shared by the checksum
commands and the frame rules (R126). -/

namespace Sys2Proof.Machine

/-- One of the 8 inner iterations of R121. -/
def crc32Bit (c : Word) : Word :=
  if c.getLsbD 0 then (c >>> 1) ^^^ 0xEDB88320 else c >>> 1

/-- f applied n times. -/
def iter {α : Type} (f : α → α) : Nat → α → α
  | 0, x => x
  | n + 1, x => iter f n (f x)

/-- One byte of R121. -/
def crc32Byte (c : Word) (b : Byte) : Word :=
  iter crc32Bit 8 (c ^^^ b.setWidth 32)

/-- CRC32_FN (R121). -/
def crc32Fn (bytes : List Byte) : Word :=
  bytes.foldl crc32Byte 0xFFFFFFFF ^^^ 0xFFFFFFFF

/-- One of the 8 inner iterations of CRC8_SMBUS (R122). -/
def crc8SmbusBit (c : Byte) : Byte :=
  if c.getLsbD 7 then (c <<< 1) ^^^ 0x07 else c <<< 1

/-- CRC8_SMBUS, the reference instance the spec's vectors use. No meaning uses it: CRC8_FN is open (R122). -/
def crc8Smbus (bytes : List Byte) : Byte :=
  bytes.foldl (fun c b => iter crc8SmbusBit 8 (c ^^^ b)) 0

/-- CRCw (R83), zero-extended, with the 8-bit function as an argument (R8: the model takes it as one). -/
def crcWith (c8 : List Byte → Byte) (k : SyncWord) (bytes : List Byte) : Word :=
  match k with
  | .requestCrc8 => (c8 bytes).setWidth 32
  | .responseCrc8 => (c8 bytes).setWidth 32
  | .requestCrc32 => crc32Fn bytes
  | .responseCrc32 => crc32Fn bytes

/-- CRCw of this hardware: crcWith at its CRC8_FN. -/
def crcW (k : SyncWord) (bytes : List Byte) : Word :=
  crcWith Config.crc8Fn k bytes

end Sys2Proof.Machine
end

