-- ==== Sys2Proof/Machine/Checksum.lean ====
section
/-! DEFINITION. The checksum commands (40_checksum.md R124, R125). -/

namespace Sys2Proof.Machine

/-- The shared body of R124 and R125: the range check against RXB_SIZE, the read of RXB[o..o+n), and CRC_RESULT. -/
def crcCommand (fn : List Byte → Word) (s : State) : Result :=
  let o := s.crcOff.toNat
  let n := s.crcLen.toNat
  if Config.rxbSize < o + n then raise .range { s with crcResult := 0 }
  else withRead (readBytes s .rxb o n) fun bytes => complete { s with crcResult := fn bytes }

/-- CRC8 (R124). -/
def execCrc8 (s : State) : Result :=
  crcCommand (fun bytes => (Config.crc8Fn bytes).setWidth 32) s

/-- CRC32 (R125). -/
def execCrc32 (s : State) : Result :=
  crcCommand crc32Fn s

end Sys2Proof.Machine
end

