-- ==== Sys2Proof/Machine/Control.lean ====
section
/-! DEFINITION. NOP (R197) and the completion of a command word that decodes to no command (R191). -/

namespace Sys2Proof.Machine

/-- NOP (R197): `complete(OK)`. -/
def execNop (s : State) : Result :=
  complete s

/-- A reserved or illegal command word (R104, R191): BadCommand, and nothing but STATUS changes. -/
def badCommand (s : State) : Result :=
  raise .badCommand s

end Sys2Proof.Machine
end

