-- ==== Sys2Proof/Machine/Operands.lean ====
section
/-! DEFINITION. The words the commands assemble from frame fields (D_SYNC, D_HDR, D_FLEN, D_ROUTE, P_INFO), the
demultiplexer function, the schema layouts, and the device-type table. -/

namespace Sys2Proof

/-- The field types of a payload schema (R170). raw32 is the BAM tag (R173) or a word of its trailing region. -/
inductive FieldType where
  | u8
  | u16
  | float32
  | raw32
deriving DecidableEq, Repr

/-- The bytes a field takes. -/
def FieldType.size : FieldType → Nat
  | .u8 => 1
  | .u16 => 2
  | .float32 => 4
  | .raw32 => 4

/-- The fields of a schema in their order, back to back from payload offset 0 (R170 to R173). -/
def Schema.layout : Schema → List FieldType
  | .motor => [.float32, .float32, .float32, .float32, .u8]
  | .light => [.u8, .float32, .float32, .float32, .u8]
  | .bam =>
    [.raw32, .u8, .u8, .u16, .u16, .u8, .u8]
      ++ List.replicate 13 .float32
      ++ List.replicate 10 .raw32

/-- The schema's fixed width in bytes (R102, R171 to R173). -/
def Schema.width : Schema → Nat
  | .motor => 17
  | .light => 14
  | .bam => Config.bamWidth

/-- COUNT, the REC words a schema fills (R171 to R173). -/
def Schema.count : Schema → Nat
  | .motor => 5
  | .light => 5
  | .bam => 30

end Sys2Proof

namespace Sys2Proof.Machine

/-- D_SYNC of a legal sync word (R33, R148). -/
def dSyncWord (k : SyncWord) : Word :=
  k.value.setWidth 32 ||| flagBit k.isResponse 16 ||| flagBit (k.width == 4) 17

/-- D_HDR (R34, R148). -/
def dHdrWord (id flags csr : Byte) (L : Nat) : Word :=
  id.setWidth 32 ||| (flags.setWidth 32 <<< 8) ||| (csr.setWidth 32 <<< 16) ||| (BitVec.ofNat 32 L <<< 24)

/-- The frame length `payloadEnd + w` (R84). -/
def frameLength (k : SyncWord) (L : Nat) : Nat :=
  6 + k.width + L + k.width

/-- D_FLEN (R37, R148): FLEN, and SURPLUS the buffer bytes after it. -/
def dFlenWord (flen surplus : Nat) : Word :=
  BitVec.ofNat 32 flen ||| (BitVec.ofNat 32 surplus <<< 16)

/-- REBOOT (R164): csrAddress 0xFE and a payload of exactly AD DE. -/
def isReboot (csr : Byte) (payload : List Byte) : Bool :=
  csr == 0xFE && payload == [0xAD, 0xDE]

/-- Demux(id, csr, P) (R160): the D_ROUTE word. -/
def demux (id csr : Byte) (payload : List Byte) : Word :=
  let bcast := id == 0xFF
  flagBit bcast 0
    ||| flagBit (id.getLsbD 7 && !bcast) 1
    ||| flagBit (id.getLsbD 6 && !bcast) 2
    ||| flagBit (isReboot csr payload) 3
    ||| ((id.extractLsb' 0 6).setWidth 32 <<< 8)
    ||| ((CsrClass.ofByte csr).code.setWidth 32 <<< 16)

/-- Fields_k of R175: each field as one zero-extended word. A float32 is its bit pattern (R174). -/
def readFields : List FieldType → List Byte → List Word
  | [], _ => []
  | t :: ts, bytes => leValue (bytes.take t.size) :: readFields ts (bytes.drop t.size)

/-- The record file with the given words first and 0 after them (R40). -/
def recordOf (words : List Word) : Vector Word 32 :=
  Vector.ofFn fun j => words.getD j.val 0

/-- P_INFO of a decoded record (R39, R175). -/
def pInfoWord (sc : Schema) (srcval : Bool) : Word :=
  sc.sel.setWidth 32 ||| (BitVec.ofNat 32 sc.count <<< 8) ||| flagBit srcval 16

/-- The device types of R92. They select nothing inside the codec: the table is here so that it can be named. -/
inductive DeviceType where
  | hostComputer
  | pro4Rov
  | manipulator
  | camera
  | thrusterModule
  | radiationSensor
  | cpProbe
  | light
  | genericSensorModule
  | protocolAdapter
  | smartTetherNode
deriving DecidableEq, Repr

/-- The device-type codes (R92). -/
def DeviceType.code : DeviceType → Byte
  | .hostComputer => 0x00
  | .pro4Rov => 0x01
  | .manipulator => 0x02
  | .camera => 0x03
  | .thrusterModule => 0x04
  | .radiationSensor => 0x05
  | .cpProbe => 0x06
  | .light => 0x07
  | .genericSensorModule => 0x08
  | .protocolAdapter => 0x10
  | .smartTetherNode => 0x50

end Sys2Proof.Machine
end

