-- ==== Sys2Proof/Machine/Decoder.lean ====
section
/-! DEFINITION. The frame decoder (42_decoder.md): the fetch of a frame from RXB, the commit on success and on error, and
DECODE. -/

namespace Sys2Proof.Machine

/-- Why a DECODE fails: the bound of R141, or a structural error of the frame decoder. -/
inductive DecodeError where
  | range
  | frame (r : FrameReject)
deriving DecidableEq, Repr

/-- The error code (R190). -/
def DecodeError.errCode : DecodeError → ErrCode
  | .range => .range
  | .frame (.truncated _ _) => .truncatedFrame
  | .frame (.unknownSync _) => .unknownSyncWord
  | .frame (.extendedLength _) => .unsupportedExtendedLength

/-- D_SYNC after the error (R149): the sync word if it was read, with DIR and WIDE if it was legal. -/
def DecodeError.sync : DecodeError → Word
  | .range => 0
  | .frame (.truncated none _) => 0
  | .frame (.truncated (some k) _) => dSyncWord k
  | .frame (.unknownSync v) => v.setWidth 32
  | .frame (.extendedLength k) => dSyncWord k

/-- D_FLEN after the error (R149): the length a TruncatedFrame required, and 0 otherwise; SURPLUS 0. -/
def DecodeError.flen : DecodeError → Word
  | .range => 0
  | .frame (.truncated _ required) => dFlenWord required 0
  | .frame (.unknownSync _) => 0
  | .frame (.extendedLength _) => 0

/-- Stages R141 to R146 on RXB[0..RX_LEN): the frame that stands there, or the error. -/
def fetchFrame (s : State) : Except Fault (Except DecodeError (SyncWord × Frame)) :=
  let n := s.rxLen.toNat
  if Config.rxbSize < n then .ok (.error .range)
  else
    match decodeFrameFrom n (fun a m => readBytes s .rxb a m) with
    | .error f => .error f
    | .ok (.error r) => .ok (.error (.frame r))
    | .ok (.ok x) => .ok (.ok x)

/-- Commit on success (R148), without the completion. The checksums are those of R145 and R147. -/
def State.commit (s : State) (k : SyncWord) (f : Frame) : State :=
  let L := f.payload.length
  let flen := frameLength k L
  let hc := crcW k (headerBytes k f.id f.flags f.csr L)
  let tc := crcW k f.payload
  { (s.writeBytes .plb 0 f.payload).withFrameFlags (f.hcrc == hc) (f.tcrc == tc) with
    dSync := dSyncWord k
    dHdr := dHdrWord f.id f.flags f.csr L
    dHcrcRx := f.hcrc
    dHcrcCalc := hc
    dTcrcRx := f.tcrc
    dTcrcCalc := tc
    dFlen := dFlenWord flen (s.rxLen.toNat - flen)
    dRoute := demux f.id f.csr f.payload
    plLen := BitVec.ofNat 8 L }

/-- Commit on error (R149), without the completion: PLB and PL_LEN are unchanged. -/
def State.commitError (s : State) (e : DecodeError) : State :=
  { s.clearFrameFlags with
    dSync := e.sync
    dHdr := 0
    dHcrcRx := 0
    dHcrcCalc := 0
    dTcrcRx := 0
    dTcrcCalc := 0
    dFlen := e.flen
    dRoute := 0 }

/-- A decode that ends in a structural or Range error (R149, R194). -/
def decodeFails (e : DecodeError) (s : State) : Result :=
  raise e.errCode (s.commitError e)

/-- What a decode does with the frame it fetched: `found` says what with a committed frame. -/
def withFrame (s : State) (fails : DecodeError → Result) (found : SyncWord → Frame → Result) : Result :=
  withRead (fetchFrame s) fun r =>
    match r with
    | .error e => fails e
    | .ok (k, f) => found k f

/-- DECODE (R140). -/
def execDecode (s : State) : Result :=
  withFrame s (fun e => decodeFails e s) (fun k f => complete (s.commit k f))

end Sys2Proof.Machine
end

