-- ==== Sys2Proof/Machine/Csr.lean ====
section
/-! DEFINITION. The csrAddress rows (43_demux.md R163): what the CODEC does when DECODE meets, in RXB, a frame that
carries this csrAddress at offset 4. The demultiplexer classifies and does not filter (R165). Log 12. -/

namespace Sys2Proof.Machine

/-- DECODE of the frame in RXB, its csrAddress byte being `csr`. -/
def decodeWithCsr (csr : Byte) (s : State) : Result :=
  withFrame s (fun e => decodeFails e s) (fun k f => complete (s.commit k { f with csr := csr }))

/-- DEVICE_REG (R163): class 0. -/
def execDeviceReg (csr : Byte) (s : State) : Result :=
  decodeWithCsr csr s

/-- CUSTOM (R163): class 1. -/
def execCustom (s : State) : Result :=
  decodeWithCsr 0xF0 s

/-- CONFIG_SIZE (R163): class 2. -/
def execConfigSize (s : State) : Result :=
  decodeWithCsr 0xF5 s

/-- CONFIG_DATA (R163): class 3. -/
def execConfigData (s : State) : Result :=
  decodeWithCsr 0xF7 s

/-- NODE_ID (R163): class 4. -/
def execNodeId (s : State) : Result :=
  decodeWithCsr 0xFB s

/-- GROUP_ID (R163): class 5. -/
def execGroupId (s : State) : Result :=
  decodeWithCsr 0xFC s

/-- DEVICE_ID (R163): class 6. -/
def execDeviceId (s : State) : Result :=
  decodeWithCsr 0xFD s

/-- UTILITY (R163): class 7; REBOOT as R164 says. -/
def execUtility (s : State) : Result :=
  decodeWithCsr 0xFE s

/-- RESERVED_F (R163): class 8. -/
def execReservedF (csr : Byte) (s : State) : Result :=
  decodeWithCsr csr s

end Sys2Proof.Machine
end

