-- ==== Sys2Proof/Machine/Encoder.lean ====
section
/-! DEFINITION. The frame encoder (41_encoder.md). -/

namespace Sys2Proof.Machine

/-- The contents of a frame whose two checksums are those BuildFrame computes (R89, R91, R132). -/
def frameWith (c8 : List Byte → Byte) (k : SyncWord) (id flags csr : Byte) (payload : List Byte) : Frame where
  id := id
  flags := flags
  csr := csr
  hcrc := crcWith c8 k (headerBytes k id flags csr payload.length)
  payload := payload
  tcrc := crcWith c8 k payload

/-- BuildFrame (R132) with the 8-bit checksum function as an argument. -/
def buildFrameWith (c8 : List Byte → Byte) (k : SyncWord) (id flags csr : Byte) (payload : List Byte) : List Byte :=
  encodeFrame k (frameWith c8 k id flags csr payload)

/-- BuildFrame (R132) of this hardware. -/
def buildFrame (k : SyncWord) (id flags csr : Byte) (payload : List Byte) : List Byte :=
  buildFrameWith Config.crc8Fn k id flags csr payload

/-- ENCODE (R130, R131): the two preconditions in their order, then BuildFrame into TXB. -/
def execEncode (syncsel : BitVec 2) (s : State) : Result :=
  if 2 ≤ syncsel.toNat then raise .encodePrecondition { s with txLen := 0 }
  else if s.plLen = 0xFF then raise .encodePrecondition { s with txLen := 0 }
  else withRead (readBytes s .plb 0 s.plLen.toNat) fun payload =>
    let bytes := buildFrame (SyncWord.ofSel syncsel) s.encId s.encFlags s.encCsr payload
    complete { s.writeBytes .txb 0 bytes with txLen := BitVec.ofNat 16 bytes.length }

end Sys2Proof.Machine
end

