-- ==== Sys2Proof/Machine/Frames.lean ====
section
/-! DEFINITION. The frame rows (30_encoding.md R81): what the CODEC does when DECODE meets this frame at offset 0 of a
receive buffer of RX_LEN bytes. Log 11. -/

namespace Sys2Proof.Machine

/-- The checks of R141 to R146 in the order of R192 on a frame whose contents are known, then the commit of R148. -/
def acceptFrame (k : SyncWord) (f : Frame) (s : State) : Result :=
  let n := s.rxLen.toNat
  if Config.rxbSize < n then decodeFails .range s
  else if n < 2 then decodeFails (.frame (.truncated none 2)) s
  else if n < 6 + 2 * k.width then decodeFails (.frame (.truncated (some k) (6 + 2 * k.width))) s
  else if 255 ≤ f.payload.length then decodeFails (.frame (.extendedLength k)) s
  else if n < frameLength k f.payload.length then
    decodeFails (.frame (.truncated (some k) (frameLength k f.payload.length))) s
  else complete (s.commit k f)

/-- RequestCrc8: direction request, w = 1 (R81, R83). -/
def execRequestCrc8 (f : Frame) (s : State) : Result :=
  acceptFrame .requestCrc8 f s

/-- RequestCrc32: direction request, w = 4 (R81, R83). -/
def execRequestCrc32 (f : Frame) (s : State) : Result :=
  acceptFrame .requestCrc32 f s

/-- ResponseCrc8: direction response, w = 1 (R81, R83). -/
def execResponseCrc8 (f : Frame) (s : State) : Result :=
  acceptFrame .responseCrc8 f s

/-- ResponseCrc32: direction response, w = 4 (R81, R83). -/
def execResponseCrc32 (f : Frame) (s : State) : Result :=
  acceptFrame .responseCrc32 f s

end Sys2Proof.Machine
end

