-- ==== Sys2Proof/Machine/Payload.lean ====
section
/-! DEFINITION. The payload dispatcher (44_payload.md): DECODE_PAYLOAD, DECODE_DISPATCH and the schema rows. -/

namespace Sys2Proof.Machine

/-- A failed payload decoding: REC and P_INFO all 0, RVALID 0 (R176). -/
def State.clearRecord (s : State) : State :=
  { s with record := Vector.replicate 32 0, pInfo := 0, rvalid := false }

/-- A decoded record (R175, R176). -/
def State.setRecord (s : State) (sc : Schema) (payload : List Byte) : State :=
  { s with
    record := recordOf (readFields sc.layout payload)
    pInfo := pInfoWord sc s.plval
    rvalid := true }

/-- The body of R175 from "W <- ..." on, for the schema sc. -/
def decodePayloadAs (sc : Schema) (s : State) : Result :=
  if s.plLen.toNat = sc.width then
    withRead (readBytes s .plb 0 sc.width) fun payload => complete (s.setRecord sc payload)
  else raise .payloadLengthMismatch s.clearRecord

/-- DECODE_PAYLOAD (R175); BadSchema writes nothing else (R191). -/
def execDecodePayload (schema : BitVec 4) (s : State) : Result :=
  match Schema.ofSel schema with
  | none => raise .badSchema s
  | some sc => decodePayloadAs sc s

/-- R180 after the commit: the payload is dispatched only when both flags are 1. -/
def dispatchCommitted (sc : Schema) (s : State) : Result :=
  if s.hvalid && s.tvalid then decodePayloadAs sc s
  else raise .notValidated s.clearRecord

/-- DECODE_DISPATCH (R180). -/
def execDecodeDispatch (schema : BitVec 4) (s : State) : Result :=
  match Schema.ofSel schema with
  | none => raise .badSchema s
  | some sc =>
    withFrame s (fun e => decodeFails e s.clearRecord) (fun k f => dispatchCommitted sc (s.commit k f))

/-- MOTOR (R171): the payload as the MOTOR schema. Log 13. -/
def execMotor (s : State) : Result :=
  decodePayloadAs .motor s

/-- LIGHT (R172): the payload as the LIGHT schema. Log 13. -/
def execLight (s : State) : Result :=
  decodePayloadAs .light s

/-- BAM (R173): the payload as the BAM schema. Log 13. -/
def execBam (s : State) : Result :=
  decodePayloadAs .bam s

end Sys2Proof.Machine
end

