-- ==== Sys2Proof/Machine/Dispatch.lean ====
section
/-! DEFINITION. The one match over Instr: every arm is one call of its meaning. -/

namespace Sys2Proof.Machine

def exec (i : Instr) (s : State) : Host.Outcome State Fault Refusal :=
  match i with
  | .nop => Sys2Proof.Machine.execNop s
  | .crc8 => Sys2Proof.Machine.execCrc8 s
  | .crc32 => Sys2Proof.Machine.execCrc32 s
  | .encode syncsel => Sys2Proof.Machine.execEncode syncsel s
  | .decode => Sys2Proof.Machine.execDecode s
  | .decodePayload schema => Sys2Proof.Machine.execDecodePayload schema s
  | .decodeDispatch schema => Sys2Proof.Machine.execDecodeDispatch schema s
  | .requestCrc8 f => Sys2Proof.Machine.execRequestCrc8 f s
  | .requestCrc32 f => Sys2Proof.Machine.execRequestCrc32 f s
  | .responseCrc8 f => Sys2Proof.Machine.execResponseCrc8 f s
  | .responseCrc32 f => Sys2Proof.Machine.execResponseCrc32 f s
  | .deviceReg csr => Sys2Proof.Machine.execDeviceReg csr s
  | .custom => Sys2Proof.Machine.execCustom s
  | .configSize => Sys2Proof.Machine.execConfigSize s
  | .configData => Sys2Proof.Machine.execConfigData s
  | .nodeId => Sys2Proof.Machine.execNodeId s
  | .groupId => Sys2Proof.Machine.execGroupId s
  | .deviceId => Sys2Proof.Machine.execDeviceId s
  | .utility => Sys2Proof.Machine.execUtility s
  | .reservedF csr => Sys2Proof.Machine.execReservedF csr s
  | .motor => Sys2Proof.Machine.execMotor s
  | .light => Sys2Proof.Machine.execLight s
  | .bam => Sys2Proof.Machine.execBam s

end Sys2Proof.Machine
end

