-- ==== Sys2Proof/Machine/Step.lean ====
section
/-! DEFINITION. One step of the total order of 20_memory.md R68: the next input, or the pending command. -/

namespace Sys2Proof.Machine

/-- The CODEC's turn (R214): the whole pending command; nothing when none is pending. -/
def codecStep (s : State) : Result :=
  match s.pending with
  | none => .next s
  | some w =>
    match decodeCmd w with
    | .ok i => exec i s
    | .error _ => badCommand s

/-- One step. When no input is left the CODEC has its turn, so a pending command always runs (R215). Log 5. -/
def step (s : State) : Host.Outcome State Fault Refusal :=
  match s.inputs with
  | [] => codecStep s
  | .codec :: rest => codecStep { s with inputs := rest }
  | .rst :: rest => .next { s.rst with inputs := rest }
  | .read addr n :: rest => busAccess addr { s with inputs := rest } fun off => hostRead off n { s with inputs := rest }
  | .write addr n v :: rest =>
    busAccess addr { s with inputs := rest } fun off => hostWrite off n v { s with inputs := rest }

/-- s with the command word w issued and the CODEC's turn next. -/
def State.withCommand (s : State) (w : Word) : State :=
  match s.inputs with
  | [] => s.issue w
  | rest => { s.issue w with inputs := .codec :: rest }

/-- s with a frame in RXB, RX_LEN its length, DECODE issued and the CODEC's turn next. -/
def State.withRxFrame (s : State) (bytes : List Byte) : State :=
  ({ s.writeBytes .rxb 0 bytes with rxLen := BitVec.ofNat 16 bytes.length }).withCommand (cmdWord 4 0 0)

/-- s with the instruction of a table word where the next step fetches it (log 15): a command in CMD and PENDING; a frame
in RXB under DECODE; a csrAddress in a valid, otherwise empty ResponseCrc32 frame under DECODE; a schema selector in
DECODE_PAYLOAD. -/
def State.withFetchWord (s : State) (nbits w : Nat) : State :=
  match tableCode nbits w with
  | .cmd c => s.withCommand c
  | .frame bytes => s.withRxFrame bytes
  | .csr b => s.withRxFrame (buildFrame .responseCrc32 0 0 b [])
  | .schema k => s.withCommand (cmdWord 5 0 k)

end Sys2Proof.Machine
end

