-- ==== Sys2Proof/WellFormed.lean ====
section
/-! DEFINITION. Which terms of Instr have an encoding: the operand bounds that the types do not say by themselves. -/

namespace Sys2Proof

/-- The largest checksum value of w bytes fits below this bound (R83). -/
def SyncWord.crcBound : SyncWord → Nat
  | .requestCrc8 => 256
  | .responseCrc8 => 256
  | .requestCrc32 => 4294967296
  | .responseCrc32 => 4294967296

/-- A frame has a payload of 0 to 254 bytes (R84, R88) and checksums of its width (R83). -/
def Frame.wf (k : SyncWord) (f : Frame) : Bool :=
  decide (f.payload.length ≤ 254) && decide (f.hcrc.toNat < k.crcBound) && decide (f.tcrc.toNat < k.crcBound)

/-- Well-formed: an operand of a class row is an address of that class (R163), and a frame is a frame (R80). -/
def Instr.wf : Instr → Bool
  | .nop => true
  | .crc8 => true
  | .crc32 => true
  | .encode _ => true
  | .decode => true
  | .decodePayload _ => true
  | .decodeDispatch _ => true
  | .requestCrc8 f => f.wf .requestCrc8
  | .requestCrc32 f => f.wf .requestCrc32
  | .responseCrc8 f => f.wf .responseCrc8
  | .responseCrc32 f => f.wf .responseCrc32
  | .deviceReg b => decide (b.toNat < 0xF0)
  | .custom => true
  | .configSize => true
  | .configData => true
  | .nodeId => true
  | .groupId => true
  | .deviceId => true
  | .utility => true
  | .reservedF b => [0xF1, 0xF2, 0xF3, 0xF4, 0xF6, 0xF8, 0xF9, 0xFA, 0xFF].contains b.toNat
  | .motor => true
  | .light => true
  | .bam => true

end Sys2Proof
end

