-- ==== Sys2Proof/Safety.lean ====
section
/-! DEFINITION. The predicates that claims are stated in: what a safe step is, what every step keeps, and the spec's own
tables in the form a claim compares the machine against. -/

namespace Sys2Proof.Machine

/-! ## Steps and outcomes -/

/-- The step answers a next state: neither a model fault nor a refusal. -/
def Advances (r : Result) : Prop :=
  ∃ t, r = .next t

/-- The CODEC has the next step of the total order: its turn stands first, or no input is left (log 5). -/
def State.codecTurn (s : State) : Prop :=
  s.inputs = [] ∨ ∃ rest, s.inputs = .codec :: rest

/-- s with the input that its next step takes removed. -/
def State.advance (s : State) : State :=
  { s with inputs := s.inputs.tail }

/-- The offsets of RXB that DECODE reads, in order, of a receive buffer holding `bytes`: transcribed from R153. Of an
unwritten byte `bytes` may hold any value: the first of these offsets that is unwritten does not depend on it. -/
def decodeReads (bytes : List Byte) : List Nat :=
  let n := bytes.length
  if n < 2 then []
  else [0, 1] ++
    match SyncWord.ofValue ((leValue (slice bytes 0 2)).setWidth 16) with
    | none => []
    | some k =>
      let w := k.width
      let L := (bytes.getD 5 0).toNat
      if n < 6 + 2 * w then []
      else [2, 3, 4, 5] ++
        if L = 0xFF ∨ n < 6 + w + L + w then []
        else (List.range (w + L + w)).map (6 + ·)

/-- RXB[0..RX_LEN) is within RXB, and the bytes of it that DECODE reads (R153) are written and are those of `bytes`. The
bytes it does not read, surplus ones among them, may be unwritten. -/
def State.rxPresents (s : State) (bytes : List Byte) : Prop :=
  s.rxLen.toNat ≤ Config.rxbSize ∧ bytes.length = s.rxLen.toNat
    ∧ ∀ i ∈ decodeReads bytes, s.byte .rxb i = bytes[i]?

/-- `bytes` is what the receive buffer RXB[0..RX_LEN) may hold: any value where a byte is unwritten (R46). -/
def State.rxMayHold (s : State) (bytes : List Byte) : Prop :=
  s.rxLen.toNat ≤ Config.rxbSize ∧ bytes.length = s.rxLen.toNat
    ∧ ∀ i v, i < bytes.length → s.byte .rxb i = some v → bytes[i]? = some v

/-- The first of the bytes DECODE reads that is unwritten. -/
def State.firstUnwritten (s : State) (bytes : List Byte) : Option Nat :=
  (decodeReads bytes).find? fun i => (s.byte .rxb i).isNone

/-- The states equal but for what the HOST's accesses while BUSY change: OVERRUN and the model's own read value and draw
counter. -/
def State.sameButHost (s t : State) : Prop :=
  { s with overrun := t.overrun, hostRdata := t.hostRdata, draws := t.draws } = t

/-- An access the bus accepts, by window offset and byte count: an aligned 32-bit access of a mapped register, or an
8-bit access of a buffer byte (R22, R23, R62, R63). -/
def legalAccess (off n : Nat) : Prop :=
  ((off < 0x048 ∨ (0x100 ≤ off ∧ off < 0x180)) ∧ n = 4 ∧ off % 4 = 0) ∨ (0x400 ≤ off ∧ off < 0x900 ∧ n = 1)

/-! ## What a command's rule writes -/

/-- The writes of R148 for a frame with sync word k and contents f in a buffer of RX_LEN bytes, on any of the registers
and buffers; STATUS.RVALID, REC and P_INFO are not among them. -/
structure CommitsFrame (s t : State) (k : SyncWord) (f : Frame) : Prop where
  /-- D_SYNC: the sync word, DIR, WIDE, and reserved bits 0 (R33) -/
  sync : t.dSync.extractLsb' 0 16 = k.value ∧ t.dSync.getLsbD 16 = k.isResponse
    ∧ t.dSync.getLsbD 17 = (k.width == 4) ∧ t.dSync.extractLsb' 18 14 = 0
  /-- D_HDR: id, flags, csrAddress, payloadLength (R34) -/
  header : t.dHdr.extractLsb' 0 8 = f.id ∧ t.dHdr.extractLsb' 8 8 = f.flags ∧ t.dHdr.extractLsb' 16 8 = f.csr
    ∧ (t.dHdr.extractLsb' 24 8).toNat = f.payload.length
  /-- the stored checksums (R35, R36) -/
  stored : t.dHcrcRx = f.hcrc ∧ t.dTcrcRx = f.tcrc
  /-- the recomputed checksums (R145, R147) -/
  recomputed : t.dHcrcCalc = crcW k (headerBytes k f.id f.flags f.csr f.payload.length)
    ∧ t.dTcrcCalc = crcW k f.payload
  /-- D_FLEN: the frame length and the surplus (R37) -/
  length : (t.dFlen.extractLsb' 0 16).toNat = 6 + k.width + f.payload.length + k.width
    ∧ (t.dFlen.extractLsb' 16 16).toNat = s.rxLen.toNat - (6 + k.width + f.payload.length + k.width)
  /-- D_ROUTE (R160) -/
  route : t.dRoute = demux f.id f.csr f.payload
  /-- PLB[0..L) holds the payload and PL_LEN is L -/
  payload : readBytes t .plb 0 f.payload.length = .ok f.payload ∧ t.plLen.toNat = f.payload.length
  /-- HVALID and TVALID are the comparisons, DVALID is 1, PLVAL the conjunction -/
  flags : t.dvalid = true ∧ t.hvalid = (t.dHcrcRx == t.dHcrcCalc) ∧ t.tvalid = (t.dTcrcRx == t.dTcrcCalc)
    ∧ t.plval = (t.hvalid && t.tvalid)
  /-- every byte of memory outside PLB[0..L) reads as before -/
  memory : ∀ a, (a < Buffer.plb.base ∨ Buffer.plb.base + f.payload.length ≤ a) → t.mem.get a = s.mem.get a

/-- The writes of R149 and R194 for a decode that ends in error e, D_SYNC and D_FLEN as given: everything else, PLB and
PL_LEN among it, is unchanged. -/
def FailsDecode (s t : State) (e : ErrCode) (sync : Word) (flen : Nat) : Prop :=
  t = { s with
        dSync := sync, dHdr := 0, dHcrcRx := 0, dHcrcCalc := 0, dTcrcRx := 0, dTcrcCalc := 0,
        dFlen := BitVec.ofNat 32 flen, dRoute := 0, dvalid := false, hvalid := false, tvalid := false, plval := false,
        busy := false, done := true, err := e, pending := none }

/-- The registers a decode leaves alone: t differs from s only in the D_* registers, PL_LEN, the frame flags, memory and
the completion. -/
def State.sameButDecode (s t : State) : Prop :=
  t = { s with
        dSync := t.dSync, dHdr := t.dHdr, dHcrcRx := t.dHcrcRx, dHcrcCalc := t.dHcrcCalc, dTcrcRx := t.dTcrcRx,
        dTcrcCalc := t.dTcrcCalc, dFlen := t.dFlen, dRoute := t.dRoute, plLen := t.plLen, dvalid := t.dvalid,
        hvalid := t.hvalid, tvalid := t.tvalid, plval := t.plval, mem := t.mem,
        busy := t.busy, done := t.done, err := t.err, pending := t.pending }

/-- The completion of R193 and R194 with error code e. -/
def State.completed (t : State) (e : ErrCode) : Prop :=
  t.busy = false ∧ t.done = true ∧ t.err = e ∧ t.pending = none

/-! ## What every step keeps -/

/-- R45: PENDING is none exactly when BUSY = 0, and equals CMD otherwise; DONE is 0 from issue to completion (R25). -/
def State.handshake (s : State) : Prop :=
  s.busy = s.pending.isSome ∧ ∀ w, s.pending = some w → w = s.cmd ∧ s.done = false

/-- The reserved bits of D_SYNC, D_ROUTE and P_INFO read 0 (R33, R38, R39), and those of CRC_RESULT are none. -/
def State.reservedZero (s : State) : Prop :=
  s.dSync.extractLsb' 18 14 = 0
    ∧ s.dRoute.extractLsb' 4 4 = 0 ∧ s.dRoute.extractLsb' 14 2 = 0 ∧ s.dRoute.extractLsb' 20 12 = 0
    ∧ s.pInfo.extractLsb' 4 4 = 0 ∧ s.pInfo.extractLsb' 17 15 = 0

/-- The frame flags say what the D_* registers hold: HVALID and TVALID are the comparisons of the stored and recomputed
checksums of a committed frame (R145, R147), both are 0 without one (R25), and then the D_* registers but D_SYNC and
D_FLEN are 0 (R149, R210). -/
def State.frameFlagsSound (s : State) : Prop :=
  (s.dvalid = true → s.hvalid = (s.dHcrcRx == s.dHcrcCalc) ∧ s.tvalid = (s.dTcrcRx == s.dTcrcCalc))
    ∧ (s.dvalid = false →
        s.hvalid = false ∧ s.tvalid = false ∧ s.dHdr = 0 ∧ s.dHcrcRx = 0 ∧ s.dHcrcCalc = 0 ∧ s.dTcrcRx = 0
          ∧ s.dTcrcCalc = 0 ∧ s.dRoute = 0)

/-- Without a record REC and P_INFO are 0 (R39, R176); with one, P_INFO names its schema and count, and REC is 0 from
COUNT on (R40). -/
def State.recordSound (s : State) : Prop :=
  (s.rvalid = false → s.pInfo = 0 ∧ s.record = Vector.replicate 32 0)
    ∧ (s.rvalid = true →
        ∃ sc : Schema, ∃ src : Bool, s.pInfo = pInfoWord sc src
          ∧ ∀ j : Fin 32, sc.count ≤ j.val → s.record[j] = 0)

/-- PLVAL (R25): PLB[0..PL_LEN) is the payload of the DecodedFrame in the D_* registers, and both of its checksum flags
are 1; so the total checksum stored in the frame is the checksum of exactly the bytes now in PLB. -/
def State.payloadVouched (s : State) : Prop :=
  s.plval = true →
    s.dvalid = true ∧ s.hvalid = true ∧ s.tvalid = true
      ∧ s.dHdr.extractLsb' 24 8 = s.plLen
      ∧ ∃ k payload, s.dSync = dSyncWord k ∧ readBytes s .plb 0 s.plLen.toNat = .ok payload
          ∧ s.dTcrcRx = crcW k payload

/-- TXB[0..TX_LEN) is empty or a whole frame that BuildFrame makes for a request sync word (R28, R131). -/
def State.txFrameBuilt (s : State) : Prop :=
  s.txLen ≠ 0 →
    ∃ k id flags csr payload, SyncWord.isResponse k = false ∧ payload.length ≤ 254
      ∧ readBytes s .txb 0 s.txLen.toNat = .ok (buildFrame k id flags csr payload)

/-! ## The spec's tables -/

/-- The payload bytes of each REC word, as (offset, size), transcribed from the tables of R171 to R173. -/
def recordTable : Schema → List (Nat × Nat)
  | .motor => [(0, 4), (4, 4), (8, 4), (12, 4), (16, 1)]
  | .light => [(0, 1), (1, 4), (5, 4), (9, 4), (13, 1)]
  | .bam =>
    [(0, 4), (4, 1), (5, 1), (6, 2), (8, 2), (10, 1), (11, 1),
     (12, 4), (16, 4), (20, 4), (24, 4),
     (28, 4), (32, 4), (36, 4), (40, 4),
     (44, 4), (48, 4),
     (52, 4), (56, 4), (60, 4)]
    ++ [(64, 4), (68, 4), (72, 4), (76, 4), (80, 4), (84, 4), (88, 4), (92, 4), (96, 4), (100, 4)]

/-- D_SYNC of each legal sync word: SYNC, DIR and WIDE, transcribed from R33 and R81 (and the D_SYNC values of V-DEC-1,
V-DEC-6, V-DEC-15 and V-DEC-17). -/
def dSyncTable : SyncWord → Word
  | .requestCrc8 => 0x0000AFFA
  | .requestCrc32 => 0x00025FF5
  | .responseCrc8 => 0x0001DFFD
  | .responseCrc32 => 0x00030FF0

/-- The command of R22's column "written by commands" that writes the D_* registers, PL_LEN and PLB: a decode. -/
def decodesFrame : Instr → Bool
  | .nop => false
  | .crc8 => false
  | .crc32 => false
  | .encode _ => false
  | .decode => true
  | .decodePayload _ => false
  | .decodeDispatch _ => true
  | .requestCrc8 _ => true
  | .requestCrc32 _ => true
  | .responseCrc8 _ => true
  | .responseCrc32 _ => true
  | .deviceReg _ => true
  | .custom => true
  | .configSize => true
  | .configData => true
  | .nodeId => true
  | .groupId => true
  | .deviceId => true
  | .utility => true
  | .reservedF _ => true
  | .motor => false
  | .light => false
  | .bam => false

/-- The commands of that column that write REC and P_INFO. -/
def writesRecord : Instr → Bool
  | .nop => false
  | .crc8 => false
  | .crc32 => false
  | .encode _ => false
  | .decode => false
  | .decodePayload _ => true
  | .decodeDispatch _ => true
  | .requestCrc8 _ => false
  | .requestCrc32 _ => false
  | .responseCrc8 _ => false
  | .responseCrc32 _ => false
  | .deviceReg _ => false
  | .custom => false
  | .configSize => false
  | .configData => false
  | .nodeId => false
  | .groupId => false
  | .deviceId => false
  | .utility => false
  | .reservedF _ => false
  | .motor => true
  | .light => true
  | .bam => true

/-- STATUS.ERR of each error, transcribed from the table of R190. -/
def errorNumberTable : ErrCode → Nat
  | .ok => 0
  | .unknownSyncWord => 1
  | .truncatedFrame => 2
  | .unsupportedExtendedLength => 3
  | .payloadLengthMismatch => 4
  | .badCommand => 5
  | .badSchema => 6
  | .encodePrecondition => 7
  | .range => 8
  | .notValidated => 9

/-- COUNT of each schema, transcribed from R171 to R173. -/
def countTable : Schema → Nat
  | .motor => 5
  | .light => 5
  | .bam => 30

/-- Width of each schema, transcribed from R171 to R173. -/
def widthTable : Schema → Nat
  | .motor => 17
  | .light => 14
  | .bam => 104

/-- Selector of each schema, transcribed from R102. -/
def selectorTable : Schema → Nat
  | .motor => 0
  | .light => 1
  | .bam => 2

/-- CSRCLASS of each csrAddress, transcribed from the table of R163. -/
def csrClassTable (csr : Nat) : Nat :=
  if csr ≤ 0xEF then 0
  else if csr = 0xF0 then 1
  else if csr = 0xF5 then 2
  else if csr = 0xF7 then 3
  else if csr = 0xFB then 4
  else if csr = 0xFC then 5
  else if csr = 0xFD then 6
  else if csr = 0xFE then 7
  else 8

/-- The legal command words (R103). -/
def legalCommandWords : List (Word × Instr) :=
  [(0x00000000, .nop), (0x00000001, .crc8), (0x00000002, .crc32),
   (0x00000003, .encode 0), (0x00000013, .encode 1), (0x00000004, .decode),
   (0x00000005, .decodePayload 0), (0x00000105, .decodePayload 1), (0x00000205, .decodePayload 2),
   (0x00000006, .decodeDispatch 0), (0x00000106, .decodeDispatch 1), (0x00000206, .decodeDispatch 2)]

/-- The record a payload P gives under a schema: REC[j] for j < COUNT is the little-endian value of its payload bytes,
zero-extended, REC[COUNT..32) is 0 (R40, R171 to R174), and P_INFO is SCHEMA, COUNT and SRCVAL (R39); t differs from s
only in these, RVALID and the completion. -/
structure RecordsPayload (s t : State) (sc : Schema) (payload : List Byte) : Prop where
  fields : ∀ j : Fin 32, ∀ off size, (recordTable sc)[j.val]? = some (off, size) →
    t.record[j] = leValue (slice payload off size)
  rest : ∀ j : Fin 32, countTable sc ≤ j.val → t.record[j] = 0
  info : (t.pInfo.extractLsb' 0 4).toNat = selectorTable sc ∧ t.pInfo.extractLsb' 4 4 = 0
    ∧ (t.pInfo.extractLsb' 8 8).toNat = countTable sc ∧ t.pInfo.getLsbD 16 = s.plval
    ∧ t.pInfo.extractLsb' 17 15 = 0
  rest_same : t = { s with
    record := t.record, pInfo := t.pInfo, rvalid := true, busy := false, done := true, err := .ok, pending := none }

end Sys2Proof.Machine
end

