-- ==== Sys2Proof/Certificates/Slice0/Obligations.lean ====
section
/-! DEFINITION. The statements for the provers. Each docstring names the rule of spec/ it formalises, or what it is derived
from. -/

open Sys2Proof Sys2Proof.Machine

/-! ## Reset and the step -/

/-- R210: the rst step, at any point, also while BUSY = 1, leaves every register reading 0 and PENDING none, and the reset
state is such a state. No byte is written (R211). -/
def Obligations.RstStepResetsEveryRegister : Prop :=
  (∀ (s : State) (rest : List Input), s.inputs = .rst :: rest →
    ∃ t, step s = .next t ∧ (∀ r : Reg, t.regWord r = 0) ∧ t.pending = none ∧ (∀ b i, t.byte b i = none)
      ∧ t.inputs = rest)
    ∧ (∀ r : Reg, State.reset.regWord r = 0) ∧ State.reset.pending = none ∧ ∀ b i, State.reset.byte b i = none

/-- Derived from R214: when the CODEC has its turn and the pending word decodes to a command, the step is exec of it. That
a turn is an input, or comes when no input is left, is the model's choice (log 5). -/
def Obligations.StepRunsPendingCommand : Prop :=
  ∀ (s : State) (w : Word) (i : Instr), s.codecTurn → s.pending = some w → decode (.cmd w) = .ok i →
    step s = exec i s.advance

/-- Derived from R140 and R81: with DECODE pending, the step runs the frame instruction that the receive buffer decodes to. That a frame row is an instruction is the model's choice (log 11). -/
def Obligations.StepRunsFrameInRxb : Prop :=
  ∀ (s : State) (w : Word) (bytes : List Byte) (i : Instr), s.codecTurn → s.pending = some w →
    decode (.cmd w) = .ok .decode → s.rxPresents bytes → decode (.frame bytes) = .ok i → step s = exec i s.advance

/-- Derived from R163 and R102: with DECODE pending the step runs the csr row of the frame in RXB, and with DECODE_PAYLOAD
pending the schema row of its selector. That these rows are instructions is the model's choice (logs 12 and 13). -/
def Obligations.StepRunsSelectorRows : Prop :=
  (∀ (s : State) (w : Word) (bytes : List Byte) (k : SyncWord) (f : Frame) (i : Instr), s.codecTurn →
    s.pending = some w → decode (.cmd w) = .ok .decode → s.rxPresents bytes → decodeFrame bytes = .ok (k, f) →
    decode (.csr f.csr) = .ok i → step s = exec i s.advance)
  ∧ (∀ (s : State) (w : Word) (sel : BitVec 4) (i : Instr), s.codecTurn →
    s.pending = some w → decode (.cmd w) = .ok (.decodePayload sel) → decode (.schema sel) = .ok i →
    step s = exec i s.advance)

/-- Derived from R45 and R214, which give the CODEC a step only when PENDING is not none. That it has a turn then too, which
only removes that input, is the model's choice (log 5). -/
def Obligations.IdleCodecTurnDoesNothing : Prop :=
  ∀ s : State, s.codecTurn → s.pending = none → step s = .next s.advance

/-- R104: a reserved or illegal command word fails with BadCommand and changes nothing but STATUS (and PENDING, by R194);
and every other word is accepted by the decoder. -/
def Obligations.IllegalCommandWordsFail : Prop :=
  ∀ w : Word,
    let bad := 7 ≤ (w.extractLsb' 0 4).toNat ∨ w.extractLsb' 6 2 ≠ 0 ∨ w.extractLsb' 12 20 ≠ 0
      ∨ (w.extractLsb' 4 2 ≠ 0 ∧ (w.extractLsb' 0 4).toNat ≠ 3)
      ∨ (w.extractLsb' 8 4 ≠ 0 ∧ (w.extractLsb' 0 4).toNat ≠ 5 ∧ (w.extractLsb' 0 4).toNat ≠ 6)
    (bad → decode (.cmd w) = .error (.badCommand w)
      ∧ ∀ s : State, s.codecTurn → s.pending = some w →
        step s = .next { s.advance with busy := false, done := true, err := .badCommand, pending := none })
    ∧ (¬ bad → ∃ i, decode (.cmd w) = .ok i)

/-! ## Encoding -/

/-- Derived from R80, R102, R103 and R163: decoding an encoded well-formed instruction gives it back, for every
constructor and every operand value the encoding admits. -/
def Obligations.DecodeOfEncodeIsTheInstruction : Prop :=
  ∀ i : Instr, i.wf = true → decode (encode i) = .ok i

/-- Derived from R95, R103 and R146: what decodes is well-formed, and its encoding is the code it was decoded from; of a
receive buffer, the bytes before the surplus. -/
def Obligations.DecodedCodeIsTheEncoding : Prop :=
  ∀ (c : Code) (i : Instr), decode c = .ok i →
    i.wf = true ∧ (encode i = c ∨ ∃ bytes surplus, encode i = .frame bytes ∧ c = .frame (bytes ++ surplus))

/-- Derived from R81, R87, R102 and R103: words written out from the spec's tables decode to the instructions they
stand for. -/
def Obligations.SpecWordsDecode : Prop :=
  (∀ p ∈ legalCommandWords, decode (.cmd p.1) = .ok p.2 ∧ encode p.2 = .cmd p.1)
  ∧ decode (.frame [0xFA, 0xAF, 0x01, 0x02, 0x03, 0x00, 0x55, 0x66])
      = .ok (.requestCrc8 ⟨0x01, 0x02, 0x03, 0x55, [], 0x66⟩)
  ∧ decode (.frame [0xF5, 0x5F, 0x01, 0x02, 0x03, 0x01, 0x11, 0x22, 0x33, 0x44, 0xAB, 0x55, 0x66, 0x77, 0x88])
      = .ok (.requestCrc32 ⟨0x01, 0x02, 0x03, 0x44332211, [0xAB], 0x88776655⟩)
  ∧ decode (.frame [0xFD, 0xDF, 0x01, 0x02, 0x03, 0x00, 0x55, 0x66])
      = .ok (.responseCrc8 ⟨0x01, 0x02, 0x03, 0x55, [], 0x66⟩)
  ∧ decode (.csr 0xF5) = .ok .configSize ∧ decode (.csr 0xFE) = .ok .utility
  ∧ decode (.csr 0xEF) = .ok (.deviceReg 0xEF) ∧ decode (.csr 0xF6) = .ok (.reservedF 0xF6)
  ∧ decode (.schema 0) = .ok .motor ∧ decode (.schema 1) = .ok .light ∧ decode (.schema 2) = .ok .bam
  ∧ decode (.schema 3) = .error (.reservedSchema 3)

/-- R80 and R91: the layout of a frame that BuildFrame makes, field by field, for every sync word. -/
def Obligations.BuiltFrameLayout : Prop :=
  ∀ (k : SyncWord) (id flags csr : Byte) (payload : List Byte), payload.length ≤ 254 →
    let F := buildFrame k id flags csr payload
    let w := k.width
    let L := payload.length
    F.length = 6 + w + L + w
      ∧ leValue (slice F 0 2) = k.value.setWidth 32
      ∧ F[2]? = some id ∧ F[3]? = some flags ∧ F[4]? = some csr ∧ (∃ b : Byte, F[5]? = some b ∧ b.toNat = L)
      ∧ leValue (slice F 6 w) = crcW k (slice F 0 6)
      ∧ slice F (6 + w) L = payload
      ∧ leValue (slice F (6 + w + L) w) = crcW k (slice F (6 + w) L)

/-- Derived from R140, R142 to R146 and R192: the stages of the frame decoder in their order, on a buffer's bytes. -/
def Obligations.DecoderStagesInOrder : Prop :=
  ∀ bytes : List Byte,
    (bytes.length < 2 → decodeFrame bytes = .error (.truncated none 2))
    ∧ (2 ≤ bytes.length → (∀ k : SyncWord, leValue (slice bytes 0 2) ≠ k.value.setWidth 32) →
        decodeFrame bytes = .error (.unknownSync ((leValue (slice bytes 0 2)).setWidth 16)))
    ∧ ∀ k : SyncWord, 2 ≤ bytes.length → leValue (slice bytes 0 2) = k.value.setWidth 32 →
        (bytes.length < 6 + 2 * k.width → decodeFrame bytes = .error (.truncated (some k) (6 + 2 * k.width)))
        ∧ (6 + 2 * k.width ≤ bytes.length → ∀ id flags csr L : Byte, slice bytes 2 4 = [id, flags, csr, L] →
            (L = 0xFF → decodeFrame bytes = .error (.extendedLength k))
            ∧ (L ≠ 0xFF → bytes.length < 6 + k.width + L.toNat + k.width →
                decodeFrame bytes = .error (.truncated (some k) (6 + k.width + L.toNat + k.width)))
            ∧ (L ≠ 0xFF → 6 + k.width + L.toNat + k.width ≤ bytes.length →
                decodeFrame bytes = .ok (k,
                  { id := id, flags := flags, csr := csr,
                    hcrc := leValue (slice bytes 6 k.width),
                    payload := slice bytes (6 + k.width) L.toNat,
                    tcrc := leValue (slice bytes (6 + k.width + L.toNat) k.width) })))

/-! ## Commands -/

/-- R197: NOP writes BUSY, DONE and ERR (and PENDING, by R193) and nothing else; any other bit of CMD makes it fail with
BadCommand. -/
def Obligations.NopCompletes : Prop :=
  decode (.cmd 0) = .ok .nop
  ∧ (∀ s : State, exec .nop s = .next { s with busy := false, done := true, err := .ok, pending := none })
  ∧ ∀ (w : Word) (s : State), w.extractLsb' 0 4 = 0 → w ≠ 0 → s.codecTurn → s.pending = some w →
      step s = .next { s.advance with busy := false, done := true, err := .badCommand, pending := none }

/-- R124 and R125: the checksum commands over RXB[CRC_OFF .. CRC_OFF+CRC_LEN): the result, Range, and the model fault, and
no validity bit or other register changes. The check values are those of the rules' examples. -/
def Obligations.ChecksumCommandsComplete : Prop :=
  decode (.cmd 1) = .ok .crc8 ∧ decode (.cmd 2) = .ok .crc32
  ∧ (∀ s : State,
      let o := s.crcOff.toNat
      let n := s.crcLen.toNat
      (512 < o + n → ∀ i, i = .crc8 ∨ i = .crc32 →
        exec i s = .next { s with crcResult := 0, busy := false, done := true, err := .range, pending := none })
      ∧ (o + n ≤ 512 → ∀ bytes, readBytes s .rxb o n = .ok bytes →
          exec .crc8 s = .next { s with crcResult := (Config.crc8Fn bytes).setWidth 32, busy := false, done := true,
                                        err := .ok, pending := none }
          ∧ exec .crc32 s = .next { s with crcResult := crc32Fn bytes, busy := false, done := true, err := .ok,
                                           pending := none })
      ∧ (o + n ≤ 512 → ∀ f, readBytes s .rxb o n = .error f → ∀ i, i = .crc8 ∨ i = .crc32 → exec i s = .fault f))
  ∧ crc32Fn [] = 0
  ∧ crc32Fn [0x31, 0x32, 0x33, 0x34, 0x35, 0x36, 0x37, 0x38, 0x39] = 0xCBF43926
  ∧ crc32Fn [0xF0, 0x0F, 0x3D, 0x02, 0xF0, 0x0E] = 0xD4C117C3
  ∧ crc8Smbus [0x31, 0x32, 0x33, 0x34, 0x35, 0x36, 0x37, 0x38, 0x39] = 0xF4

/-- Derived from R154's ground (the CRC-32 of R121 detects an error inside one byte): two byte sequences that differ in
exactly one byte have different CRC-32 values. -/
def Obligations.Crc32DetectsOneByteChange : Prop :=
  ∀ (before after : List Byte) (x y : Byte), x ≠ y →
    crc32Fn (before ++ x :: after) ≠ crc32Fn (before ++ y :: after)

/-- R130: the two preconditions of ENCODE in their order, before anything is read or written but TX_LEN. -/
def Obligations.EncodePreconditionsFail : Prop :=
  ∀ (sel : BitVec 2) (s : State), (2 ≤ sel.toNat ∨ s.plLen.toNat = 255) →
    exec (.encode sel) s
      = .next { s with txLen := 0, busy := false, done := true, err := .encodePrecondition, pending := none }

/-- Derived from R131: ENCODE's success and its model fault: the frame of R132 in TXB[0..TX_LEN), the length, and the
frame of the instruction: every other byte of memory and every other register is unchanged. -/
def Obligations.EncodeBuildsFrameInTxb : Prop :=
  decode (.cmd 0x03) = .ok (.encode 0) ∧ decode (.cmd 0x13) = .ok (.encode 1)
  ∧ ∀ (sel : BitVec 2) (s : State), sel.toNat < 2 → s.plLen.toNat ≠ 255 →
      (∀ payload, readBytes s .plb 0 s.plLen.toNat = .ok payload →
        let k : SyncWord := if sel = 0 then .requestCrc8 else .requestCrc32
        ∃ t, exec (.encode sel) s = .next t
          ∧ t.txLen.toNat = 6 + k.width + payload.length + k.width
          ∧ readBytes t .txb 0 t.txLen.toNat = .ok (buildFrame k s.encId s.encFlags s.encCsr payload)
          ∧ (∀ a, (a < Buffer.txb.base ∨ Buffer.txb.base + t.txLen.toNat ≤ a) → t.mem.get a = s.mem.get a)
          ∧ t = { s with mem := t.mem, txLen := t.txLen, busy := false, done := true, err := .ok, pending := none })
      ∧ (∀ f, readBytes s .plb 0 s.plLen.toNat = .error f → exec (.encode sel) s = .fault f)

/-- R148: DECODE of a structurally complete frame commits it whole, whatever its checksums, and changes nothing else. Only
the bytes that R153 lists need be written. -/
def Obligations.DecodeCommitsFrame : Prop :=
  decode (.cmd 4) = .ok .decode
  ∧ ∀ (s : State) (bytes : List Byte) (k : SyncWord) (f : Frame), s.rxPresents bytes → decodeFrame bytes = .ok (k, f) →
      ∃ t, exec .decode s = .next t ∧ CommitsFrame s t k f ∧ s.sameButDecode t ∧ t.completed .ok

/-- Derived from R149 and R153: what DECODE writes when a stage raises an error, PLB and PL_LEN unchanged. Range needs no
byte of RXB to be written, and another error only those that R153 lists: that a frame too short for its length is
TruncatedFrame also where its header checksum bytes are unwritten, which R140's pseudocode names before the check, is the
model's reading (log 7). -/
def Obligations.DecodeErrorCommits : Prop :=
  ∀ s : State,
    (512 < s.rxLen.toNat → ∃ t, exec .decode s = .next t ∧ FailsDecode s t .range 0 0)
    ∧ ∀ bytes : List Byte, s.rxPresents bytes →
        (∀ required, decodeFrame bytes = .error (.truncated none required) →
          ∃ t, exec .decode s = .next t ∧ FailsDecode s t .truncatedFrame 0 required)
        ∧ (∀ k required, decodeFrame bytes = .error (.truncated (some k) required) →
          ∃ t, exec .decode s = .next t ∧ FailsDecode s t .truncatedFrame (dSyncTable k) required)
        ∧ (∀ v : Half, decodeFrame bytes = .error (.unknownSync v) →
          ∃ t, exec .decode s = .next t ∧ FailsDecode s t .unknownSyncWord (v.setWidth 32) 0)
        ∧ (∀ k, decodeFrame bytes = .error (.extendedLength k) →
          ∃ t, exec .decode s = .next t ∧ FailsDecode s t .unsupportedExtendedLength (dSyncTable k) 0)

/-- Derived from R153 and R46: an unwritten byte among those that R153 lists is DECODE's model fault, taken at the first
of them in its order (log 7), whatever value the unwritten bytes hold; and DECODE has no other model fault. -/
def Obligations.DecodeFaultsOnlyOnReadBytes : Prop :=
  ∀ s : State,
    (∀ (bytes : List Byte) (i : Nat), s.rxMayHold bytes → s.firstUnwritten bytes = some i →
      exec .decode s = .fault (.unwrittenRead .rxb i))
    ∧ (∀ bytes : List Byte, s.rxMayHold bytes → s.firstUnwritten bytes = none → ∃ t, exec .decode s = .next t)
    ∧ (512 < s.rxLen.toNat → ∃ t, exec .decode s = .next t)

/-- Derived from R151: DECODE is idempotent: run again on the state it left, it answers that very state. -/
def Obligations.DecodeIsIdempotent : Prop :=
  ∀ s t : State, exec .decode s = .next t → exec .decode t = .next t

/-- Derived from R44 and R153: what DECODE answers depends only on RX_LEN and RXB[0..RX_LEN). -/
def Obligations.DecodeDependsOnlyOnRxb : Prop :=
  ∀ s u : State, s.rxLen = u.rxLen → (∀ i, i < s.rxLen.toNat → s.byte .rxb i = u.byte .rxb i) →
    (∀ f, exec .decode s = .fault f → exec .decode u = .fault f)
    ∧ ∀ t v, exec .decode s = .next t → exec .decode u = .next v →
        t.err = v.err ∧ t.dSync = v.dSync ∧ t.dHdr = v.dHdr ∧ t.dHcrcRx = v.dHcrcRx ∧ t.dHcrcCalc = v.dHcrcCalc
          ∧ t.dTcrcRx = v.dTcrcRx ∧ t.dTcrcCalc = v.dTcrcCalc ∧ t.dFlen = v.dFlen ∧ t.dRoute = v.dRoute
          ∧ t.dvalid = v.dvalid ∧ t.hvalid = v.hvalid ∧ t.tvalid = v.tvalid ∧ t.plval = v.plval
          ∧ (t.err = .ok → t.plLen = v.plLen
              ∧ readBytes t .plb 0 t.plLen.toNat = readBytes v .plb 0 v.plLen.toNat)

/-- Derived from R134 and R150: decoding a frame that BuildFrame made, with any surplus after it, completes with both
flags 1, its fields and its payload, for every sync word of either direction. -/
def Obligations.BuiltFrameDecodesBack : Prop :=
  ∀ (s : State) (k : SyncWord) (id flags csr : Byte) (payload surplus : List Byte), payload.length ≤ 254 →
    s.rxPresents (buildFrame k id flags csr payload ++ surplus) →
    ∃ t, exec .decode s = .next t ∧ t.completed .ok
      ∧ t.dvalid = true ∧ t.hvalid = true ∧ t.tvalid = true ∧ t.plval = true
      ∧ t.dSync.extractLsb' 0 16 = k.value
      ∧ t.dHdr = id.setWidth 32 ||| (flags.setWidth 32 <<< 8) ||| (csr.setWidth 32 <<< 16)
          ||| (BitVec.ofNat 32 payload.length <<< 24)
      ∧ readBytes t .plb 0 payload.length = .ok payload ∧ t.plLen.toNat = payload.length
      ∧ (t.dFlen.extractLsb' 16 16).toNat = surplus.length

/-- Derived from R126: DECODE's recomputed header checksum is what the checksum command of the frame's width returns over
RXB[0..6). -/
def Obligations.ChecksumEngineIsShared : Prop :=
  ∀ (s t : State) (bytes : List Byte) (k : SyncWord) (f : Frame), s.rxPresents bytes → decodeFrame bytes = .ok (k, f) →
    exec .decode s = .next t →
    ∃ u, exec (if k.width = 1 then .crc8 else .crc32) { s with crcOff := 0, crcLen := 6 } = .next u
      ∧ u.err = .ok ∧ u.crcResult = t.dHcrcCalc

/-- Derived from R154: in a CRC-32 frame with a valid header checksum, a change of the id, the flags or the csrAddress byte
alone is committed with HVALID = 0, and TVALID as it was, since the total checksum covers the payload only. It is stated on
the frame rows, whose meaning as instructions is the model's choice (log 11). -/
def Obligations.HeaderCorruptionIsFlagged : Prop :=
  ∀ (s : State) (k : SyncWord) (f g : Frame), k.width = 4 → f.wf k = true →
    6 + k.width + f.payload.length + k.width ≤ s.rxLen.toNat → s.rxLen.toNat ≤ 512 →
    f.hcrc = crcW k (headerBytes k f.id f.flags f.csr f.payload.length) →
    ((∃ b, b ≠ f.id ∧ g = { f with id := b }) ∨ (∃ b, b ≠ f.flags ∧ g = { f with flags := b })
      ∨ (∃ b, b ≠ f.csr ∧ g = { f with csr := b })) →
    ∃ t, exec (Instr.ofFrame k g) s = .next t ∧ t.err = .ok ∧ t.dvalid = true ∧ t.hvalid = false ∧ t.plval = false
      ∧ t.tvalid = (f.tcrc == crcW k f.payload)

/-! ## Frame rows -/

/-- Derived from R81, R83 and R148: RequestCrc8, RequestCrc32, ResponseCrc8 and ResponseCrc32, each with any contents that
fit the receive buffer: the frame is committed with the direction and width of its sync word. A frame row as an instruction
is the model's choice (log 11). -/
def Obligations.FrameRowsCommit : Prop :=
  ∀ (k : SyncWord) (i : Instr) (f : Frame) (s : State),
    ((k = .requestCrc8 ∧ i = .requestCrc8 f) ∨ (k = .requestCrc32 ∧ i = .requestCrc32 f)
      ∨ (k = .responseCrc8 ∧ i = .responseCrc8 f) ∨ (k = .responseCrc32 ∧ i = .responseCrc32 f)) →
    f.payload.length ≤ 254 → 6 + k.width + f.payload.length + k.width ≤ s.rxLen.toNat → s.rxLen.toNat ≤ 512 →
    ∃ t, exec i s = .next t ∧ CommitsFrame s t k f ∧ s.sameButDecode t ∧ t.completed .ok

/-- Derived from R141, R143, R144, R146 and R149: where the frame rows end in an error instead, in the order of R192. A
frame row as an instruction is the model's choice (log 11). -/
def Obligations.FrameRowsReject : Prop :=
  ∀ (k : SyncWord) (f : Frame) (s : State),
    let n := s.rxLen.toNat
    let flen := 6 + k.width + f.payload.length + k.width
    (512 < n → ∃ t, exec (Instr.ofFrame k f) s = .next t ∧ FailsDecode s t .range 0 0)
    ∧ (n < 2 → ∃ t, exec (Instr.ofFrame k f) s = .next t ∧ FailsDecode s t .truncatedFrame 0 2)
    ∧ (2 ≤ n → n < 6 + 2 * k.width →
        ∃ t, exec (Instr.ofFrame k f) s = .next t ∧ FailsDecode s t .truncatedFrame (dSyncTable k) (6 + 2 * k.width))
    ∧ (6 + 2 * k.width ≤ n → n ≤ 512 → 255 ≤ f.payload.length →
        ∃ t, exec (Instr.ofFrame k f) s = .next t ∧ FailsDecode s t .unsupportedExtendedLength (dSyncTable k) 0)
    ∧ (6 + 2 * k.width ≤ n → n < flen → n ≤ 512 → f.payload.length ≤ 254 →
        ∃ t, exec (Instr.ofFrame k f) s = .next t ∧ FailsDecode s t .truncatedFrame (dSyncTable k) flen)

/-! ## The demultiplexer and the csr rows -/

/-- R160 and R163: every field of the D_ROUTE word, for every id, csrAddress and payload; the last clause is the precedence of
BCAST (R162). -/
def Obligations.DemuxWordFields : Prop :=
  ∀ (id csr : Byte) (payload : List Byte),
    let r := demux id csr payload
    (r.getLsbD 0 = decide (id.toNat = 0xFF))
      ∧ (r.getLsbD 1 = (decide (128 ≤ id.toNat) && decide (id.toNat ≠ 0xFF)))
      ∧ (r.getLsbD 2 = (decide (64 ≤ id.toNat % 128) && decide (id.toNat ≠ 0xFF)))
      ∧ (r.getLsbD 3 = (decide (csr.toNat = 0xFE) && decide (payload = [0xAD, 0xDE])))
      ∧ r.extractLsb' 4 4 = 0
      ∧ (r.extractLsb' 8 6).toNat = id.toNat % 64
      ∧ r.extractLsb' 14 2 = 0
      ∧ (r.extractLsb' 16 4).toNat = csrClassTable csr.toNat
      ∧ r.extractLsb' 20 12 = 0
      ∧ (id.toNat = 0xFF → r.getLsbD 1 = false ∧ r.getLsbD 2 = false ∧ (r.extractLsb' 8 6).toNat = 0x3F)

/-- Derived from R163, R165 and R148: DEVICE_REG, CUSTOM, CONFIG_SIZE, CONFIG_DATA, NODE_ID, GROUP_ID, DEVICE_ID, UTILITY
and RESERVED_F: with a frame in RXB the row commits that frame with the row's csrAddress, and D_ROUTE.CSRCLASS is the
row's class. When the frame carries the csrAddress it is DECODE. A csr row as an instruction is the model's choice
(log 12). -/
def Obligations.CsrRowsCommitTheirClass : Prop :=
  ∀ (i : Instr) (csr : Byte) (cls : Nat) (s : State) (bytes : List Byte) (k : SyncWord) (f : Frame),
    ((i = .deviceReg csr ∧ csr.toNat ≤ 0xEF ∧ cls = 0) ∨ (i = .custom ∧ csr = 0xF0 ∧ cls = 1)
      ∨ (i = .configSize ∧ csr = 0xF5 ∧ cls = 2) ∨ (i = .configData ∧ csr = 0xF7 ∧ cls = 3)
      ∨ (i = .nodeId ∧ csr = 0xFB ∧ cls = 4) ∨ (i = .groupId ∧ csr = 0xFC ∧ cls = 5)
      ∨ (i = .deviceId ∧ csr = 0xFD ∧ cls = 6) ∨ (i = .utility ∧ csr = 0xFE ∧ cls = 7)
      ∨ (i = .reservedF csr ∧ csr.toNat ∈ [0xF1, 0xF2, 0xF3, 0xF4, 0xF6, 0xF8, 0xF9, 0xFA, 0xFF] ∧ cls = 8)) →
    s.rxPresents bytes → decodeFrame bytes = .ok (k, f) →
    (∃ t, exec i s = .next t ∧ CommitsFrame s t k { f with csr := csr } ∧ s.sameButDecode t ∧ t.completed .ok
      ∧ (t.dRoute.extractLsb' 16 4).toNat = cls)
    ∧ (f.csr = csr → exec i s = exec .decode s)

/-- Derived from R149 and R153: where RXB holds no frame, a csr row ends as DECODE does, whichever row it is. A csr
row as an instruction is the model's choice (log 12). -/
def Obligations.CsrRowsFailAsDecode : Prop :=
  ∀ (csr : Byte) (s : State),
    (512 < s.rxLen.toNat → exec (Instr.ofCsr csr) s = exec .decode s)
    ∧ (∀ bytes r, s.rxPresents bytes → decodeFrame bytes = .error r → exec (Instr.ofCsr csr) s = exec .decode s)
    ∧ (∀ f, exec .decode s = .fault f → exec (Instr.ofCsr csr) s = .fault f)

/-! ## Payload dispatch and the schema rows -/

/-- Derived from R171 to R173 and R175: MOTOR, LIGHT and BAM: PayloadLengthMismatch where PL_LEN is not the schema's width,
the record of a payload of that width, every field of the three tables, and the model fault on an unwritten byte. A schema
row as an instruction is the model's choice (log 13). -/
def Obligations.SchemaRowsRecord : Prop :=
  ∀ (i : Instr) (sc : Schema) (s : State),
    ((i = .motor ∧ sc = .motor) ∨ (i = .light ∧ sc = .light) ∨ (i = .bam ∧ sc = .bam)) →
    (s.plLen.toNat ≠ widthTable sc → exec i s
      = .next { s with record := Vector.replicate 32 0, pInfo := 0, rvalid := false, busy := false, done := true,
                       err := .payloadLengthMismatch, pending := none })
    ∧ (s.plLen.toNat = widthTable sc → ∀ payload, readBytes s .plb 0 (widthTable sc) = .ok payload →
        ∃ t, exec i s = .next t ∧ RecordsPayload s t sc payload)
    ∧ (s.plLen.toNat = widthTable sc → ∀ f, readBytes s .plb 0 (widthTable sc) = .error f → exec i s = .fault f)

/-- R175, with the field tables of R171 to R173: DECODE_PAYLOAD: BadSchema, PayloadLengthMismatch, the record of the selected
schema, and the model fault. -/
def Obligations.DecodePayloadOutcomes : Prop :=
  decode (.cmd 0x005) = .ok (.decodePayload 0) ∧ decode (.cmd 0x105) = .ok (.decodePayload 1)
  ∧ decode (.cmd 0x205) = .ok (.decodePayload 2)
  ∧ ∀ (sel : BitVec 4) (s : State),
      (2 < sel.toNat → exec (.decodePayload sel) s
        = .next { s with busy := false, done := true, err := .badSchema, pending := none })
      ∧ ∀ sc : Schema, sel.toNat = selectorTable sc →
          (s.plLen.toNat ≠ widthTable sc → exec (.decodePayload sel) s
            = .next { s with record := Vector.replicate 32 0, pInfo := 0, rvalid := false, busy := false, done := true,
                             err := .payloadLengthMismatch, pending := none })
          ∧ (s.plLen.toNat = widthTable sc → ∀ payload, readBytes s .plb 0 (widthTable sc) = .ok payload →
              ∃ t, exec (.decodePayload sel) s = .next t ∧ RecordsPayload s t sc payload)
          ∧ (s.plLen.toNat = widthTable sc → ∀ f, readBytes s .plb 0 (widthTable sc) = .error f →
              exec (.decodePayload sel) s = .fault f)

/-- Derived from R178: the result of payload decoding depends only on the schema, PL_LEN, PLB[0..W) and PLVAL. -/
def Obligations.RecordDependsOnlyOnPayload : Prop :=
  ∀ (sc : Schema) (sel : BitVec 4) (s u : State), sel.toNat = selectorTable sc → s.plLen = u.plLen →
    s.plval = u.plval → (∀ i, i < widthTable sc → s.byte .plb i = u.byte .plb i) →
    (∀ f, exec (.decodePayload sel) s = .fault f → exec (.decodePayload sel) u = .fault f)
    ∧ ∀ t v, exec (.decodePayload sel) s = .next t → exec (.decodePayload sel) u = .next v →
        t.err = v.err ∧ t.record = v.record ∧ t.pInfo = v.pInfo ∧ t.rvalid = v.rvalid

/-- R180: DECODE_DISPATCH is DECODE and then, only when both flags are 1, DECODE_PAYLOAD, as one step: for every outcome of
the two commands. -/
def Obligations.DispatchRefinesDecodeThenPayload : Prop :=
  decode (.cmd 0x006) = .ok (.decodeDispatch 0) ∧ decode (.cmd 0x106) = .ok (.decodeDispatch 1)
  ∧ decode (.cmd 0x206) = .ok (.decodeDispatch 2)
  ∧ ∀ (sel : BitVec 4) (s : State),
    (2 < sel.toNat → exec (.decodeDispatch sel) s
      = .next { s with busy := false, done := true, err := .badSchema, pending := none })
    ∧ (sel.toNat ≤ 2 →
        (∀ f, exec .decode s = .fault f → exec (.decodeDispatch sel) s = .fault f)
        ∧ ∀ t, exec .decode s = .next t →
            (t.err ≠ .ok → exec (.decodeDispatch sel) s
              = .next { t with record := Vector.replicate 32 0, pInfo := 0, rvalid := false })
            ∧ (t.err = .ok → (t.hvalid && t.tvalid) = false → exec (.decodeDispatch sel) s
              = .next { t with record := Vector.replicate 32 0, pInfo := 0, rvalid := false, err := .notValidated })
            ∧ (t.err = .ok → t.hvalid = true → t.tvalid = true →
                exec (.decodeDispatch sel) s = exec (.decodePayload sel) t))

/-- Derived from R180: on a frame in RXB whose checksums are valid and whose payloadLength is the schema's width,
DECODE_DISPATCH completes: the frame is committed and its payload's record is written with SRCVAL 1. -/
def Obligations.DispatchCompletes : Prop :=
  ∀ (sel : BitVec 4) (sc : Schema) (s : State) (bytes : List Byte) (k : SyncWord) (f : Frame),
    sel.toNat = selectorTable sc → s.rxPresents bytes → decodeFrame bytes = .ok (k, f) →
    f.hcrc = crcW k (headerBytes k f.id f.flags f.csr f.payload.length) → f.tcrc = crcW k f.payload →
    f.payload.length = widthTable sc →
    ∃ u t, exec .decode s = .next u ∧ exec (.decodeDispatch sel) s = .next t
      ∧ CommitsFrame s t k f ∧ RecordsPayload u t sc f.payload ∧ t.pInfo.getLsbD 16 = true

/-- Derived from R181: a DECODE_DISPATCH that completes OK has decoded a frame whose two flags are 1. -/
def Obligations.DispatchNeverDecodesUnvalidated : Prop :=
  ∀ (sel : BitVec 4) (s t : State), exec (.decodeDispatch sel) s = .next t → t.rvalid = true → t.err ≠ .badSchema →
    t.err = .ok ∧ t.dvalid = true ∧ t.hvalid = true ∧ t.tvalid = true ∧ t.plval = true ∧ t.pInfo.getLsbD 16 = true

/-! ## All commands -/

/-- Derived from R193, R194 and R214: every command that does not fault ends with BUSY 0, DONE 1 and PENDING none. -/
def Obligations.EveryCommandEnds : Prop :=
  ∀ (i : Instr) (s t : State), exec i s = .next t → t.busy = false ∧ t.done = true ∧ t.pending = none

/-- Derived from R11, R46 and R198: no instruction is refused, and one stops only with the model fault UnwrittenRead of a
byte of RXB or PLB that is inside its buffer and unwritten. -/
def Obligations.OnlyUnwrittenReadsStop : Prop :=
  ∀ (i : Instr) (s : State),
    (∃ t, exec i s = .next t)
    ∨ ∃ b j, exec i s = .fault (.unwrittenRead b j) ∧ s.byte b j = none
        ∧ ((b = .rxb ∧ j < 512) ∨ (b = .plb ∧ j < 256))

/-- Derived from R213: with the operand bytes of its row of that table written, every command completes. -/
def Obligations.BootOperandsSuffice : Prop :=
  ∀ s : State,
    (∃ t, exec .nop s = .next t)
    ∧ ((∃ bytes, readBytes s .rxb s.crcOff.toNat s.crcLen.toNat = .ok bytes) →
        (∃ t, exec .crc8 s = .next t) ∧ ∃ t, exec .crc32 s = .next t)
    ∧ ((∃ bytes, readBytes s .plb 0 s.plLen.toNat = .ok bytes) → ∀ (sync : BitVec 2) (schema : BitVec 4),
        (∃ t, exec (.encode sync) s = .next t) ∧ ∃ t, exec (.decodePayload schema) s = .next t)
    ∧ ((∃ bytes, readBytes s .rxb 0 s.rxLen.toNat = .ok bytes) → ∀ schema : BitVec 4,
        (∃ t, exec .decode s = .next t) ∧ ∃ t, exec (.decodeDispatch schema) s = .next t)

/-- Derived from R22 (column "written by commands") and R217: each command leaves alone what it is not listed for; no
command writes an operand register, OVERRUN or RXB. -/
def Obligations.CommandsWriteOnlyTheirResults : Prop :=
  ∀ (i : Instr) (s t : State), exec i s = .next t →
    (t.cmd = s.cmd ∧ t.overrun = s.overrun ∧ t.rxLen = s.rxLen ∧ t.encId = s.encId ∧ t.encFlags = s.encFlags
      ∧ t.encCsr = s.encCsr ∧ t.crcOff = s.crcOff ∧ t.crcLen = s.crcLen ∧ t.inputs = s.inputs
      ∧ t.hostRdata = s.hostRdata ∧ t.draws = s.draws)
    ∧ (∀ j, j < 512 → t.byte .rxb j = s.byte .rxb j)
    ∧ ((∀ sel, i ≠ .encode sel) → t.txLen = s.txLen ∧ ∀ j, j < 512 → t.byte .txb j = s.byte .txb j)
    ∧ (i ≠ .crc8 → i ≠ .crc32 → t.crcResult = s.crcResult)
    ∧ (decodesFrame i = false →
        t.dSync = s.dSync ∧ t.dHdr = s.dHdr ∧ t.dHcrcRx = s.dHcrcRx ∧ t.dHcrcCalc = s.dHcrcCalc
          ∧ t.dTcrcRx = s.dTcrcRx ∧ t.dTcrcCalc = s.dTcrcCalc ∧ t.dFlen = s.dFlen ∧ t.dRoute = s.dRoute
          ∧ t.dvalid = s.dvalid ∧ t.hvalid = s.hvalid ∧ t.tvalid = s.tvalid ∧ t.plval = s.plval ∧ t.plLen = s.plLen
          ∧ ∀ j, j < 256 → t.byte .plb j = s.byte .plb j)
    ∧ (writesRecord i = false → t.record = s.record ∧ t.pInfo = s.pInfo ∧ t.rvalid = s.rvalid)

/-! ## The host bus -/

/-- Derived from R63: the accesses in the window that the bus refuses are BusError faults, and the others advance. That an
illegal write is so also while BUSY = 1, where R216 speaks of every write, is the model's choice (log 9). -/
def Obligations.IllegalAccessesAreBusErrors : Prop :=
  ∀ (s : State) (rest : List Input) (off : BitVec 12) (n : Nat) (x : Input),
    (x = .read (Config.codecBase + off.toNat) n ∨ ∃ v, x = .write (Config.codecBase + off.toNat) n v) →
    s.inputs = x :: rest →
    (¬ legalAccess off.toNat n → step s = .fault (.busError off))
    ∧ (legalAccess off.toNat n → ∃ t, step s = .next t)

/-- Derived from R216 and R46: accesses while BUSY = 1. A write only sets OVERRUN. A read changes no state of the block; it
returns the value of CMD, RX_LEN, ENC_HDR, CRC_OFF, CRC_LEN and of a written RXB byte, and of STATUS the bits BUSY, DONE and
OVERRUN; what it returns of the other registers, bits and bytes, and of an unwritten RXB byte, is the draw. The model's
choices in it: the reserved bits of a register are drawn with the rest of the word (log 8), a byte's draw is the low 8 bits
of the word and the counter advances by one (log 4), the value read goes to hostRdata (log 6). -/
def Obligations.BusyAccesses : Prop :=
  ∀ (s : State) (rest : List Input), s.handshake → s.busy = true →
    (∀ (off n : Nat) (v : Word), legalAccess off n → s.inputs = .write (Config.codecBase + off) n v :: rest →
      step s = .next { s with inputs := rest, overrun := true })
    ∧ (∀ r : Reg, s.inputs = .read (Config.codecBase + r.offset) 4 :: rest →
        ∃ t, step s = .next t
          ∧ t = { s with inputs := rest, hostRdata := t.hostRdata, draws := t.draws }
          ∧ (r ∈ [.cmd, .rxLen, .encHdr, .crcOff, .crcLen] → t.hostRdata = s.regWord r ∧ t.draws = s.draws)
          ∧ (r = .status → t.hostRdata.getLsbD 0 = true ∧ t.hostRdata.getLsbD 1 = false
              ∧ t.hostRdata.getLsbD 8 = s.overrun
              ∧ (∀ j, (4 ≤ j ∧ j ≤ 7) ∨ (9 ≤ j ∧ j ≤ 13) → t.hostRdata.getLsbD j = (Config.draw s.draws).getLsbD j)
              ∧ t.draws = s.draws + 1)
          ∧ (r ∉ [.cmd, .status, .rxLen, .encHdr, .crcOff, .crcLen] →
              t.hostRdata = Config.draw s.draws ∧ t.draws = s.draws + 1))
    ∧ (∀ (b : Buffer) (j : Nat), j < b.size → s.inputs = .read (Config.codecBase + (b.base + j)) 1 :: rest →
        (∀ v, b = .rxb → s.byte b j = some v → step s = .next { s with inputs := rest, hostRdata := v.setWidth 32 })
        ∧ (b ≠ .rxb ∨ s.byte b j = none →
            step s = .next { s with inputs := rest, hostRdata := Config.draw s.draws &&& 0xFF, draws := s.draws + 1 }))

/-- Derived from R22, R46, R67 and R211: a read while BUSY = 0 returns the register at the table's offset, the written byte,
or, of a byte never written, the draw; it changes nothing of the block and sets no written bit. The model's choices in it:
the value read goes to hostRdata (log 6), and a byte's draw is the low 8 bits of a word (log 4). -/
def Obligations.IdleReads : Prop :=
  ∀ (s : State) (rest : List Input), s.busy = false →
    (∀ r : Reg, s.inputs = .read (Config.codecBase + r.offset) 4 :: rest →
      step s = .next { s with inputs := rest, hostRdata := s.regWord r })
    ∧ (∀ (b : Buffer) (j : Nat), j < b.size → s.inputs = .read (Config.codecBase + (b.base + j)) 1 :: rest →
        (∀ v, s.byte b j = some v → step s = .next { s with inputs := rest, hostRdata := v.setWidth 32 })
        ∧ (s.byte b j = none →
            step s = .next { s with inputs := rest, hostRdata := Config.draw s.draws &&& 0xFF, draws := s.draws + 1 }))

/-- Derived from R25 and R190: every bit of the STATUS register, which a read while BUSY = 0 returns (IdleReads), with the
number of each error code. That ERR has the ten codes of R190's table and no other is the model's inference (log 16). -/
def Obligations.StatusWordFields : Prop :=
  ∀ s : State,
    let v := s.regWord .status
    v.getLsbD 0 = s.busy ∧ v.getLsbD 1 = s.done ∧ v.extractLsb' 2 2 = 0
      ∧ (v.extractLsb' 4 4).toNat = errorNumberTable s.err
      ∧ v.getLsbD 8 = s.overrun ∧ v.getLsbD 9 = s.dvalid ∧ v.getLsbD 10 = s.rvalid ∧ v.getLsbD 11 = s.hvalid
      ∧ v.getLsbD 12 = s.tvalid ∧ v.getLsbD 13 = s.plval ∧ v.extractLsb' 14 18 = 0

/-- Derived from R22, R23 and R27 to R40: the offset of every register and the base of every buffer, and what each register
other than STATUS holds. That reserved bits have no storage and read 0 is the model's inference (log 16). -/
def Obligations.RegisterMapFields : Prop :=
  (Reg.offset .cmd = 0x000 ∧ Reg.offset .status = 0x004 ∧ Reg.offset .rxLen = 0x008 ∧ Reg.offset .txLen = 0x00C
    ∧ Reg.offset .plLen = 0x010 ∧ Reg.offset .encHdr = 0x014 ∧ Reg.offset .crcOff = 0x018 ∧ Reg.offset .crcLen = 0x01C
    ∧ Reg.offset .crcResult = 0x020 ∧ Reg.offset .dSync = 0x024 ∧ Reg.offset .dHdr = 0x028
    ∧ Reg.offset .dHcrcRx = 0x02C ∧ Reg.offset .dHcrcCalc = 0x030 ∧ Reg.offset .dTcrcRx = 0x034
    ∧ Reg.offset .dTcrcCalc = 0x038 ∧ Reg.offset .dFlen = 0x03C ∧ Reg.offset .dRoute = 0x040
    ∧ Reg.offset .pInfo = 0x044 ∧ ∀ k : Fin 32, Reg.offset (.record k) = 0x100 + 4 * k.val)
  ∧ (Buffer.rxb.base = 0x400 ∧ Buffer.txb.base = 0x600 ∧ Buffer.plb.base = 0x800)
  ∧ ∀ s : State,
      s.regWord .cmd = s.cmd
      ∧ ((s.regWord .rxLen).extractLsb' 0 16 = s.rxLen ∧ (s.regWord .rxLen).extractLsb' 16 16 = 0)
      ∧ ((s.regWord .txLen).extractLsb' 0 16 = s.txLen ∧ (s.regWord .txLen).extractLsb' 16 16 = 0)
      ∧ ((s.regWord .plLen).extractLsb' 0 8 = s.plLen ∧ (s.regWord .plLen).extractLsb' 8 24 = 0)
      ∧ ((s.regWord .encHdr).extractLsb' 0 8 = s.encId ∧ (s.regWord .encHdr).extractLsb' 8 8 = s.encFlags
        ∧ (s.regWord .encHdr).extractLsb' 16 8 = s.encCsr ∧ (s.regWord .encHdr).extractLsb' 24 8 = 0)
      ∧ ((s.regWord .crcOff).extractLsb' 0 16 = s.crcOff ∧ (s.regWord .crcOff).extractLsb' 16 16 = 0)
      ∧ ((s.regWord .crcLen).extractLsb' 0 16 = s.crcLen ∧ (s.regWord .crcLen).extractLsb' 16 16 = 0)
      ∧ s.regWord .crcResult = s.crcResult
      ∧ s.regWord .dSync = s.dSync ∧ s.regWord .dHdr = s.dHdr
      ∧ s.regWord .dHcrcRx = s.dHcrcRx ∧ s.regWord .dHcrcCalc = s.dHcrcCalc
      ∧ s.regWord .dTcrcRx = s.dTcrcRx ∧ s.regWord .dTcrcCalc = s.dTcrcCalc
      ∧ s.regWord .dFlen = s.dFlen ∧ s.regWord .dRoute = s.dRoute ∧ s.regWord .pInfo = s.pInfo
      ∧ ∀ k : Fin 32, s.regWord (.record k) = s.record[k]

/-- Derived from R24, R25, R27, R29 to R31 and R67: what a write while BUSY = 0 does to each register: CMD issues, STATUS
bit 8 clears OVERRUN, PL_LEN clears PLVAL, and a read-only register stores nothing. -/
def Obligations.IdleRegisterWrites : Prop :=
  ∀ (s : State) (rest : List Input) (r : Reg) (v : Word), s.busy = false →
    s.inputs = .write (Config.codecBase + r.offset) 4 v :: rest →
    ∃ t, step s = .next t
      ∧ (r = .cmd → t = { s with inputs := rest, cmd := v, busy := true, done := false, pending := some v })
      ∧ (r = .status → t = { s with inputs := rest, overrun := s.overrun && !v.getLsbD 8 })
      ∧ (r = .rxLen → t = { s with inputs := rest, rxLen := t.rxLen } ∧ t.rxLen.toNat = v.toNat % 65536)
      ∧ (r = .plLen → t = { s with inputs := rest, plLen := t.plLen, plval := false } ∧ t.plLen.toNat = v.toNat % 256)
      ∧ (r = .encHdr → t = { s with inputs := rest, encId := t.encId, encFlags := t.encFlags, encCsr := t.encCsr }
          ∧ t.regWord .encHdr = v &&& 0x00FFFFFF)
      ∧ (r = .crcOff → t = { s with inputs := rest, crcOff := t.crcOff } ∧ t.crcOff.toNat = v.toNat % 65536)
      ∧ (r = .crcLen → t = { s with inputs := rest, crcLen := t.crcLen } ∧ t.crcLen.toNat = v.toNat % 65536)
      ∧ (r ∉ [.cmd, .status, .rxLen, .plLen, .encHdr, .crcOff, .crcLen] → t = { s with inputs := rest })

/-- Derived from R42, R46 and R67: a host write of a buffer byte while BUSY = 0: RXB and PLB store it and set its written
bit, a write to PLB clears PLVAL, TXB stores nothing; every other byte reads as before. That the byte is the low 8 bits of
the value written is the model's choice (log 6). -/
def Obligations.IdleByteWrites : Prop :=
  ∀ (s : State) (rest : List Input) (b : Buffer) (j : Nat) (v : Word), s.busy = false → j < b.size →
    s.inputs = .write (Config.codecBase + (b.base + j)) 1 v :: rest →
    ∃ t, step s = .next t
      ∧ t = { s with inputs := rest, mem := t.mem, plval := s.plval && b != .plb }
      ∧ (b ≠ .txb → t.byte b j = some (v.extractLsb' 0 8))
      ∧ (b = .txb → t.mem = s.mem)
      ∧ ∀ a, a ≠ b.base + j → t.mem.get a = s.mem.get a

/-- Derived from R215 and R216: no result depends on the latency: a host access that comes between the issue of a command
and its step changes nothing of what the step leaves but OVERRUN and the model's own read value and draw counter. The accesses may lie
outside the window, where they change nothing (log 10), and the order of the two steps is the list of inputs (log 5). -/
def Obligations.LatencyDoesNotChangeResults : Prop :=
  ∀ (s u : State) (x : Input) (rest : List Input), s.busy = true →
    ((∃ addr n, x = .read addr n) ∨ ∃ addr n v, x = .write addr n v) →
    step { s with inputs := x :: .codec :: rest } = .next u →
    (∃ t v, step u = .next t ∧ step { s with inputs := .codec :: rest } = .next v ∧ v.sameButHost t)
    ∨ ∃ f, step u = .fault f ∧ step { s with inputs := .codec :: rest } = .fault f

/-- Derived from R215: every issued command completes: when the inputs at hand are used up, one step more leaves the block
idle, unless a model fault stopped the run. That the CODEC's turn comes when no input is left is the model's choice
(log 5). -/
def Obligations.PendingCommandsComplete : Prop :=
  ∀ s t : State, s.handshake → Host.Core.run Sys2Proof.core (s.inputs.length + 1) s = .next t →
    t.busy = false ∧ t.pending = none ∧ t.inputs = []

/-! ## Invariants -/

/-- The reset state meets every invariant below. -/
def Obligations.ResetMeetsInvariants : Prop :=
  State.reset.mem.wf ∧ State.reset.handshake ∧ State.reset.reservedZero ∧ State.reset.frameFlagsSound
    ∧ State.reset.recordSound ∧ State.reset.payloadVouched ∧ State.reset.txFrameBuilt

/-- Every step keeps memory canonical, with every written byte inside a buffer (R23, R46). The canonical form is the
model's choice (log 3). -/
def Obligations.StepKeepsMemoryCanonical : Prop :=
  ∀ s t : State, s.mem.wf → step s = .next t → t.mem.wf

/-- Every step keeps the handshake of R45 and R25: PENDING is none exactly when BUSY = 0, equals CMD otherwise, and DONE is
0 until completion. -/
def Obligations.StepKeepsHandshake : Prop :=
  ∀ s t : State, s.handshake → step s = .next t → t.handshake

/-- Every step keeps the reserved bits of D_SYNC, D_ROUTE and P_INFO at 0 (R22, R33, R38, R39). -/
def Obligations.StepKeepsReservedBitsZero : Prop :=
  ∀ s t : State, s.reservedZero → step s = .next t → t.reservedZero

/-- Every step keeps the meaning of DVALID, HVALID and TVALID (R25, R145, R147, R149). -/
def Obligations.StepKeepsFrameFlagsSound : Prop :=
  ∀ s t : State, s.frameFlagsSound → step s = .next t → t.frameFlagsSound

/-- Every step keeps the meaning of RVALID (R39, R40, R176). -/
def Obligations.StepKeepsRecordSound : Prop :=
  ∀ s t : State, s.recordSound → step s = .next t → t.recordSound

/-- Every step keeps PLVAL's promise (R25): while it is 1, PLB[0..PL_LEN) is the payload that the total checksum of the
committed frame covers, and both flags of that frame are 1. -/
def Obligations.StepKeepsPayloadVouched : Prop :=
  ∀ s t : State, s.payloadVouched → step s = .next t → t.payloadVouched

/-- Every step keeps TXB[0..TX_LEN) empty or a whole frame built by ENCODE (R28, R131). -/
def Obligations.StepKeepsTxFrameBuilt : Prop :=
  ∀ s t : State, s.txFrameBuilt → step s = .next t → t.txFrameBuilt
end

