-- ==== Sys2Proof/Laws/Memory.lean ====
section
/-! SUPPORT. The laws of buffer memory: read after write, the canonical form, and what a CODEC read answers. -/

namespace Sys2Proof.Machine

theorem Memory.get_set_same (m : Memory) (a : Nat) (v : Byte) : (m.set a v).get a = some v := by
  induction m with
  | nil => simp [Memory.set, Memory.get]
  | cons c r ih =>
    obtain ⟨x, y⟩ := c
    simp only [Memory.set]
    split
    · simp [Memory.get]
    · split
      · simp [Memory.get]
      · rename_i h1 h2
        simp only [Memory.get, if_neg (Ne.symm h2), ih]

theorem Memory.get_set_ne (m : Memory) {a b : Nat} (v : Byte) (h : b ≠ a) : (m.set a v).get b = m.get b := by
  induction m with
  | nil => simp [Memory.set, Memory.get, Ne.symm h]
  | cons c r ih =>
    obtain ⟨x, y⟩ := c
    simp only [Memory.set]
    split
    · rw [Memory.get, if_neg (Ne.symm h)]
    · split
      · rename_i hx
        subst hx
        simp only [Memory.get, if_neg (Ne.symm h)]
      · simp only [Memory.get, ih]

/-- A write of consecutive bytes leaves every other offset alone. -/
theorem Memory.get_setMany_outside (bytes : List Byte) (m : Memory) (a b : Nat) (h : b < a ∨ a + bytes.length ≤ b) :
    (m.setMany a bytes).get b = m.get b := by
  induction bytes generalizing m a with
  | nil => rfl
  | cons v vs ih =>
    simp only [List.length_cons] at h
    rw [Memory.setMany, ih _ _ (by omega), Memory.get_set_ne _ _ (by omega)]

/-- A read of a byte just written gives it. -/
theorem Memory.get_setMany_inside (bytes : List Byte) (m : Memory) (a i : Nat) (h : i < bytes.length) :
    (m.setMany a bytes).get (a + i) = bytes[i]? := by
  induction bytes generalizing m a i with
  | nil => simp at h
  | cons v vs ih =>
    rw [Memory.setMany]
    cases i with
    | zero =>
      rw [Memory.get_setMany_outside _ _ _ _ (by omega), Nat.add_zero, Memory.get_set_same]
      rfl
    | succ i =>
      have : a + (i + 1) = a + 1 + i := by omega
      rw [this, ih _ _ _ (by simpa using h)]
      rfl

/-- Offsets of `set` come from the list or are the new one. -/
theorem Memory.mem_set {m : Memory} {a : Nat} {v : Byte} {c : Host.Cell} (h : c ∈ m.set a v) :
    c = (a, v) ∨ c ∈ m := by
  induction m with
  | nil => simpa [Memory.set] using h
  | cons d r ih =>
    obtain ⟨x, y⟩ := d
    simp only [Memory.set] at h
    split at h
    · simpa using h
    · split at h
      · simp only [List.mem_cons] at h ⊢
        exact h.imp id .inr
      · simp only [List.mem_cons] at h ⊢
        rcases h with h | h
        · exact .inr (.inl h)
        · exact (ih h).imp id .inr

theorem Memory.set_pairwise {m : Memory} (a : Nat) (v : Byte) (h : m.Pairwise (fun a b => a.1 < b.1)) :
    (m.set a v).Pairwise (fun a b => a.1 < b.1) := by
  induction m with
  | nil => simp [Memory.set]
  | cons d r ih =>
    obtain ⟨x, y⟩ := d
    have hr := List.pairwise_cons.mp h
    simp only [Memory.set]
    split
    · rename_i hlt
      refine List.pairwise_cons.mpr ⟨fun c hc => ?_, h⟩
      rcases List.mem_cons.mp hc with rfl | hc
      · exact hlt
      · exact Nat.lt_trans hlt (hr.1 c hc)
    · split
      · rename_i heq
        subst heq
        exact List.pairwise_cons.mpr ⟨hr.1, hr.2⟩
      · refine List.pairwise_cons.mpr ⟨fun c hc => ?_, ih hr.2⟩
        rcases Memory.mem_set hc with rfl | hc
        · show x < a
          omega
        · exact hr.1 c hc

/-- A write inside the buffers keeps the canonical form. -/
theorem Memory.set_wf {m : Memory} {a : Nat} (v : Byte) (h : m.wf) (ha : 0x400 ≤ a ∧ a < 0x900) : (m.set a v).wf := by
  refine ⟨Memory.set_pairwise a v h.1, fun c hc => ?_⟩
  rcases Memory.mem_set hc with rfl | hc
  · exact ha
  · exact h.2 c hc

/-- A write of consecutive bytes inside the buffers keeps the canonical form. -/
theorem Memory.setMany_wf (bytes : List Byte) {m : Memory} {a : Nat} (h : m.wf) (ha : 0x400 ≤ a)
    (hb : a + bytes.length ≤ 0x900) : (m.setMany a bytes).wf := by
  induction bytes generalizing m a with
  | nil => exact h
  | cons v vs ih =>
    simp only [List.length_cons] at hb
    exact ih (Memory.set_wf v h ⟨ha, by omega⟩) (by omega) (by omega)

theorem Memory.set_set_same (m : Memory) (a : Nat) (v w : Byte) : (m.set a v).set a w = m.set a w := by
  induction m with
  | nil => simp [Memory.set]
  | cons d r ih =>
    obtain ⟨x, y⟩ := d
    simp only [Memory.set]
    split
    · simp [Memory.set]
    · split
      · rename_i heq
        simp [Memory.set]
      · rename_i h1 h2
        simp only [Memory.set, if_neg h1, if_neg h2, ih]

theorem Memory.set_comm (m : Memory) {a b : Nat} (v w : Byte) (h : a < b) :
    (m.set a v).set b w = (m.set b w).set a v := by
  induction m with
  | nil => simp [Memory.set, h, Nat.not_lt.mpr (Nat.le_of_lt h), Nat.ne_of_gt h]
  | cons d r ih =>
    obtain ⟨x, y⟩ := d
    simp only [Memory.set]
    by_cases h1 : a < x
    · by_cases h2 : b < x
      · simp [Memory.set, h1, h2, h, Nat.not_lt.mpr (Nat.le_of_lt h), Nat.ne_of_gt h]
      · by_cases h3 : b = x
        · subst h3
          simp [Memory.set, h, Nat.not_lt.mpr (Nat.le_of_lt h), Nat.ne_of_gt h]
        · simp [Memory.set, h1, h2, h3, Nat.not_lt.mpr (Nat.le_of_lt h), Nat.ne_of_gt h]
    · by_cases h4 : a = x
      · subst h4
        simp [Memory.set, Nat.not_lt.mpr (Nat.le_of_lt h), Nat.ne_of_gt h]
      · have h2 : ¬ b < x := by omega
        have h3 : b ≠ x := by omega
        simp only [Memory.set, if_neg h1, if_neg h2, if_neg h3, if_neg h4, ih]

theorem Memory.set_setMany_comm (bytes : List Byte) (m : Memory) {a b : Nat} (v : Byte) (h : a < b) :
    (m.set a v).setMany b bytes = (m.setMany b bytes).set a v := by
  induction bytes generalizing m b with
  | nil => rfl
  | cons w ws ih => rw [Memory.setMany, Memory.setMany, Memory.set_comm _ _ _ h, ih _ (by omega)]

/-- Writing the same bytes twice is writing them once. -/
theorem Memory.setMany_setMany_same (bytes : List Byte) (m : Memory) (a : Nat) :
    (m.setMany a bytes).setMany a bytes = m.setMany a bytes := by
  induction bytes generalizing m a with
  | nil => rfl
  | cons v vs ih =>
    simp only [Memory.setMany]
    rw [← Memory.set_setMany_comm vs _ v (Nat.lt_succ_self a), Memory.set_set_same, ih]

/-! ## CODEC reads -/

theorem readBytes_zero (s : State) (b : Buffer) (a : Nat) : readBytes s b a 0 = .ok [] := rfl

theorem readBytes_succ (s : State) (b : Buffer) (a n : Nat) :
    readBytes s b a (n + 1) =
      match s.byte b a with
      | none => .error (.unwrittenRead b a)
      | some v =>
        match readBytes s b (a + 1) n with
        | .error f => .error f
        | .ok vs => .ok (v :: vs) := rfl

/-- A CODEC read sees memory only. -/
theorem readBytes_mem {s t : State} (h : t.mem = s.mem) (b : Buffer) (a n : Nat) :
    readBytes t b a n = readBytes s b a n := by
  unfold readBytes
  rw [h]

theorem readBytes_length {s : State} {b : Buffer} {a n : Nat} {bytes : List Byte}
    (h : readBytes s b a n = .ok bytes) : bytes.length = n := by
  induction n generalizing a bytes with
  | zero => simp only [readBytes_zero, Except.ok.injEq] at h; subst h; rfl
  | succ n ih =>
    simp only [readBytes_succ] at h
    split at h
    · cases h
    · split at h
      · cases h
      · rename_i vs hvs
        simp only [Except.ok.injEq] at h
        subst h
        simp [ih hvs]

/-- Everything a CODEC read can say: it answers exactly the written bytes. -/
theorem readBytes_eq_ok_iff {s : State} {b : Buffer} {a n : Nat} {bytes : List Byte} :
    readBytes s b a n = .ok bytes ↔ bytes.length = n ∧ ∀ i, i < n → s.byte b (a + i) = bytes[i]? := by
  induction n generalizing a bytes with
  | zero =>
    simp only [readBytes_zero, Except.ok.injEq]
    constructor
    · rintro rfl
      exact ⟨rfl, fun i hi => absurd hi (Nat.not_lt_zero i)⟩
    · rintro ⟨h, -⟩
      exact (List.length_eq_zero_iff.mp h).symm
  | succ n ih =>
    constructor
    · intro h
      refine ⟨readBytes_length h, ?_⟩
      simp only [readBytes_succ] at h
      split at h
      · cases h
      · rename_i v hv
        split at h
        · cases h
        · rename_i vs hvs
          simp only [Except.ok.injEq] at h
          subst h
          intro i hi
          cases i with
          | zero => simpa using hv
          | succ i =>
            have := (ih.mp hvs).2 i (by omega)
            simpa [Nat.add_assoc, Nat.add_comm 1] using this
    · rintro ⟨hl, hb⟩
      cases bytes with
      | nil => simp at hl
      | cons v vs =>
        have h0 : s.byte b a = some v := by simpa using hb 0 (by omega)
        have hr : readBytes s b (a + 1) n = .ok vs := by
          refine ih.mpr ⟨by simpa using hl, fun i hi => ?_⟩
          have := hb (i + 1) (by omega)
          simpa [Nat.add_assoc, Nat.add_comm 1] using this
        simp only [readBytes_succ, h0, hr]

/-- A CODEC read faults only on an unwritten byte of its range. -/
theorem readBytes_eq_error {s : State} {b : Buffer} {a n : Nat} {f : Fault} (h : readBytes s b a n = .error f) :
    ∃ i, a ≤ i ∧ i < a + n ∧ f = .unwrittenRead b i ∧ s.byte b i = none := by
  induction n generalizing a with
  | zero => cases h
  | succ n ih =>
    simp only [readBytes_succ] at h
    split at h
    · rename_i hn
      cases h
      exact ⟨a, Nat.le_refl a, by omega, rfl, hn⟩
    · split at h
      · rename_i f' hf
        cases h
        obtain ⟨i, h1, h2, h3, h4⟩ := ih hf
        exact ⟨i, by omega, by omega, h3, h4⟩
      · cases h

/-- A CODEC read sees only the bytes of its range. -/
theorem readBytes_congr {s t : State} {b : Buffer} {a n : Nat}
    (h : ∀ i, a ≤ i → i < a + n → t.byte b i = s.byte b i) : readBytes t b a n = readBytes s b a n := by
  induction n generalizing a with
  | zero => rfl
  | succ n ih =>
    simp only [readBytes_succ]
    rw [h a (Nat.le_refl a) (by omega), ih fun i h1 h2 => h i (by omega) (by omega)]

/-- A CODEC read inside an answered one answers the slice. -/
theorem readBytes_slice {s : State} {b : Buffer} {n a m : Nat} {bytes : List Byte}
    (h : readBytes s b 0 n = .ok bytes) (hm : a + m ≤ n) :
    readBytes s b a m = .ok ((bytes.drop a).take m) := by
  obtain ⟨hl, hb⟩ := readBytes_eq_ok_iff.mp h
  refine readBytes_eq_ok_iff.mpr ⟨by simp; omega, fun i hi => ?_⟩
  have := hb (a + i) (by omega)
  simpa [List.getElem?_take, hi] using this

/-- Reading back what was written. -/
theorem readBytes_writeBytes (s : State) (b : Buffer) (a : Nat) (bytes : List Byte) :
    readBytes (s.writeBytes b a bytes) b a bytes.length = .ok bytes := by
  refine readBytes_eq_ok_iff.mpr ⟨rfl, fun i hi => ?_⟩
  show (s.mem.setMany (b.base + a) bytes).get (b.base + (a + i)) = bytes[i]?
  rw [← Nat.add_assoc]
  exact Memory.get_setMany_inside bytes s.mem _ i hi

/-- A write outside a byte leaves it. -/
theorem byte_writeBytes_outside (s : State) (b c : Buffer) (a i : Nat) (bytes : List Byte)
    (h : c.base + i < b.base + a ∨ b.base + a + bytes.length ≤ c.base + i) :
    (s.writeBytes b a bytes).byte c i = s.byte c i :=
  Memory.get_setMany_outside bytes s.mem _ _ h

theorem reset_mem_wf : State.reset.mem.wf := by decide

end Sys2Proof.Machine
end

