-- ==== Sys2Proof/Laws/State.lean ====
section
/-! SUPPORT. One lemma per field per update of State, so that no later proof unfolds a record update. -/

namespace Sys2Proof.Machine

section Finish
variable (s : State) (e : ErrCode)

@[simp] theorem State.finish_cmd : (s.finish e).cmd = s.cmd := rfl
@[simp] theorem State.finish_busy : (s.finish e).busy = false := rfl
@[simp] theorem State.finish_done : (s.finish e).done = true := rfl
@[simp] theorem State.finish_err : (s.finish e).err = e := rfl
@[simp] theorem State.finish_overrun : (s.finish e).overrun = s.overrun := rfl
@[simp] theorem State.finish_dvalid : (s.finish e).dvalid = s.dvalid := rfl
@[simp] theorem State.finish_rvalid : (s.finish e).rvalid = s.rvalid := rfl
@[simp] theorem State.finish_hvalid : (s.finish e).hvalid = s.hvalid := rfl
@[simp] theorem State.finish_tvalid : (s.finish e).tvalid = s.tvalid := rfl
@[simp] theorem State.finish_plval : (s.finish e).plval = s.plval := rfl
@[simp] theorem State.finish_rxLen : (s.finish e).rxLen = s.rxLen := rfl
@[simp] theorem State.finish_txLen : (s.finish e).txLen = s.txLen := rfl
@[simp] theorem State.finish_plLen : (s.finish e).plLen = s.plLen := rfl
@[simp] theorem State.finish_encId : (s.finish e).encId = s.encId := rfl
@[simp] theorem State.finish_encFlags : (s.finish e).encFlags = s.encFlags := rfl
@[simp] theorem State.finish_encCsr : (s.finish e).encCsr = s.encCsr := rfl
@[simp] theorem State.finish_crcOff : (s.finish e).crcOff = s.crcOff := rfl
@[simp] theorem State.finish_crcLen : (s.finish e).crcLen = s.crcLen := rfl
@[simp] theorem State.finish_crcResult : (s.finish e).crcResult = s.crcResult := rfl
@[simp] theorem State.finish_dSync : (s.finish e).dSync = s.dSync := rfl
@[simp] theorem State.finish_dHdr : (s.finish e).dHdr = s.dHdr := rfl
@[simp] theorem State.finish_dHcrcRx : (s.finish e).dHcrcRx = s.dHcrcRx := rfl
@[simp] theorem State.finish_dHcrcCalc : (s.finish e).dHcrcCalc = s.dHcrcCalc := rfl
@[simp] theorem State.finish_dTcrcRx : (s.finish e).dTcrcRx = s.dTcrcRx := rfl
@[simp] theorem State.finish_dTcrcCalc : (s.finish e).dTcrcCalc = s.dTcrcCalc := rfl
@[simp] theorem State.finish_dFlen : (s.finish e).dFlen = s.dFlen := rfl
@[simp] theorem State.finish_dRoute : (s.finish e).dRoute = s.dRoute := rfl
@[simp] theorem State.finish_pInfo : (s.finish e).pInfo = s.pInfo := rfl
@[simp] theorem State.finish_record : (s.finish e).record = s.record := rfl
@[simp] theorem State.finish_pending : (s.finish e).pending = none := rfl
@[simp] theorem State.finish_mem : (s.finish e).mem = s.mem := rfl
@[simp] theorem State.finish_inputs : (s.finish e).inputs = s.inputs := rfl
@[simp] theorem State.finish_hostRdata : (s.finish e).hostRdata = s.hostRdata := rfl
@[simp] theorem State.finish_draws : (s.finish e).draws = s.draws := rfl

end Finish

section Issue
variable (s : State) (w : Word)

@[simp] theorem State.issue_cmd : (s.issue w).cmd = w := rfl
@[simp] theorem State.issue_busy : (s.issue w).busy = true := rfl
@[simp] theorem State.issue_done : (s.issue w).done = false := rfl
@[simp] theorem State.issue_err : (s.issue w).err = s.err := rfl
@[simp] theorem State.issue_overrun : (s.issue w).overrun = s.overrun := rfl
@[simp] theorem State.issue_dvalid : (s.issue w).dvalid = s.dvalid := rfl
@[simp] theorem State.issue_rvalid : (s.issue w).rvalid = s.rvalid := rfl
@[simp] theorem State.issue_hvalid : (s.issue w).hvalid = s.hvalid := rfl
@[simp] theorem State.issue_tvalid : (s.issue w).tvalid = s.tvalid := rfl
@[simp] theorem State.issue_plval : (s.issue w).plval = s.plval := rfl
@[simp] theorem State.issue_rxLen : (s.issue w).rxLen = s.rxLen := rfl
@[simp] theorem State.issue_txLen : (s.issue w).txLen = s.txLen := rfl
@[simp] theorem State.issue_plLen : (s.issue w).plLen = s.plLen := rfl
@[simp] theorem State.issue_encId : (s.issue w).encId = s.encId := rfl
@[simp] theorem State.issue_encFlags : (s.issue w).encFlags = s.encFlags := rfl
@[simp] theorem State.issue_encCsr : (s.issue w).encCsr = s.encCsr := rfl
@[simp] theorem State.issue_crcOff : (s.issue w).crcOff = s.crcOff := rfl
@[simp] theorem State.issue_crcLen : (s.issue w).crcLen = s.crcLen := rfl
@[simp] theorem State.issue_crcResult : (s.issue w).crcResult = s.crcResult := rfl
@[simp] theorem State.issue_dSync : (s.issue w).dSync = s.dSync := rfl
@[simp] theorem State.issue_dHdr : (s.issue w).dHdr = s.dHdr := rfl
@[simp] theorem State.issue_dHcrcRx : (s.issue w).dHcrcRx = s.dHcrcRx := rfl
@[simp] theorem State.issue_dHcrcCalc : (s.issue w).dHcrcCalc = s.dHcrcCalc := rfl
@[simp] theorem State.issue_dTcrcRx : (s.issue w).dTcrcRx = s.dTcrcRx := rfl
@[simp] theorem State.issue_dTcrcCalc : (s.issue w).dTcrcCalc = s.dTcrcCalc := rfl
@[simp] theorem State.issue_dFlen : (s.issue w).dFlen = s.dFlen := rfl
@[simp] theorem State.issue_dRoute : (s.issue w).dRoute = s.dRoute := rfl
@[simp] theorem State.issue_pInfo : (s.issue w).pInfo = s.pInfo := rfl
@[simp] theorem State.issue_record : (s.issue w).record = s.record := rfl
@[simp] theorem State.issue_pending : (s.issue w).pending = some w := rfl
@[simp] theorem State.issue_mem : (s.issue w).mem = s.mem := rfl
@[simp] theorem State.issue_inputs : (s.issue w).inputs = s.inputs := rfl
@[simp] theorem State.issue_hostRdata : (s.issue w).hostRdata = s.hostRdata := rfl
@[simp] theorem State.issue_draws : (s.issue w).draws = s.draws := rfl

end Issue

section WriteBytes
variable (s : State) (b : Buffer) (a : Nat) (bytes : List Byte)

@[simp] theorem State.writeBytes_cmd : (s.writeBytes b a bytes).cmd = s.cmd := rfl
@[simp] theorem State.writeBytes_busy : (s.writeBytes b a bytes).busy = s.busy := rfl
@[simp] theorem State.writeBytes_done : (s.writeBytes b a bytes).done = s.done := rfl
@[simp] theorem State.writeBytes_err : (s.writeBytes b a bytes).err = s.err := rfl
@[simp] theorem State.writeBytes_overrun : (s.writeBytes b a bytes).overrun = s.overrun := rfl
@[simp] theorem State.writeBytes_dvalid : (s.writeBytes b a bytes).dvalid = s.dvalid := rfl
@[simp] theorem State.writeBytes_rvalid : (s.writeBytes b a bytes).rvalid = s.rvalid := rfl
@[simp] theorem State.writeBytes_hvalid : (s.writeBytes b a bytes).hvalid = s.hvalid := rfl
@[simp] theorem State.writeBytes_tvalid : (s.writeBytes b a bytes).tvalid = s.tvalid := rfl
@[simp] theorem State.writeBytes_plval : (s.writeBytes b a bytes).plval = s.plval := rfl
@[simp] theorem State.writeBytes_rxLen : (s.writeBytes b a bytes).rxLen = s.rxLen := rfl
@[simp] theorem State.writeBytes_txLen : (s.writeBytes b a bytes).txLen = s.txLen := rfl
@[simp] theorem State.writeBytes_plLen : (s.writeBytes b a bytes).plLen = s.plLen := rfl
@[simp] theorem State.writeBytes_encId : (s.writeBytes b a bytes).encId = s.encId := rfl
@[simp] theorem State.writeBytes_encFlags : (s.writeBytes b a bytes).encFlags = s.encFlags := rfl
@[simp] theorem State.writeBytes_encCsr : (s.writeBytes b a bytes).encCsr = s.encCsr := rfl
@[simp] theorem State.writeBytes_crcOff : (s.writeBytes b a bytes).crcOff = s.crcOff := rfl
@[simp] theorem State.writeBytes_crcLen : (s.writeBytes b a bytes).crcLen = s.crcLen := rfl
@[simp] theorem State.writeBytes_crcResult : (s.writeBytes b a bytes).crcResult = s.crcResult := rfl
@[simp] theorem State.writeBytes_dSync : (s.writeBytes b a bytes).dSync = s.dSync := rfl
@[simp] theorem State.writeBytes_dHdr : (s.writeBytes b a bytes).dHdr = s.dHdr := rfl
@[simp] theorem State.writeBytes_dHcrcRx : (s.writeBytes b a bytes).dHcrcRx = s.dHcrcRx := rfl
@[simp] theorem State.writeBytes_dHcrcCalc : (s.writeBytes b a bytes).dHcrcCalc = s.dHcrcCalc := rfl
@[simp] theorem State.writeBytes_dTcrcRx : (s.writeBytes b a bytes).dTcrcRx = s.dTcrcRx := rfl
@[simp] theorem State.writeBytes_dTcrcCalc : (s.writeBytes b a bytes).dTcrcCalc = s.dTcrcCalc := rfl
@[simp] theorem State.writeBytes_dFlen : (s.writeBytes b a bytes).dFlen = s.dFlen := rfl
@[simp] theorem State.writeBytes_dRoute : (s.writeBytes b a bytes).dRoute = s.dRoute := rfl
@[simp] theorem State.writeBytes_pInfo : (s.writeBytes b a bytes).pInfo = s.pInfo := rfl
@[simp] theorem State.writeBytes_record : (s.writeBytes b a bytes).record = s.record := rfl
@[simp] theorem State.writeBytes_pending : (s.writeBytes b a bytes).pending = s.pending := rfl
@[simp] theorem State.writeBytes_mem : (s.writeBytes b a bytes).mem = s.mem.setMany (b.base + a) bytes := rfl
@[simp] theorem State.writeBytes_inputs : (s.writeBytes b a bytes).inputs = s.inputs := rfl
@[simp] theorem State.writeBytes_hostRdata : (s.writeBytes b a bytes).hostRdata = s.hostRdata := rfl
@[simp] theorem State.writeBytes_draws : (s.writeBytes b a bytes).draws = s.draws := rfl

end WriteBytes

section CommitError
variable (s : State) (e : DecodeError)

@[simp] theorem State.commitError_cmd : (s.commitError e).cmd = s.cmd := rfl
@[simp] theorem State.commitError_busy : (s.commitError e).busy = s.busy := rfl
@[simp] theorem State.commitError_done : (s.commitError e).done = s.done := rfl
@[simp] theorem State.commitError_err : (s.commitError e).err = s.err := rfl
@[simp] theorem State.commitError_overrun : (s.commitError e).overrun = s.overrun := rfl
@[simp] theorem State.commitError_dvalid : (s.commitError e).dvalid = false := rfl
@[simp] theorem State.commitError_rvalid : (s.commitError e).rvalid = s.rvalid := rfl
@[simp] theorem State.commitError_hvalid : (s.commitError e).hvalid = false := rfl
@[simp] theorem State.commitError_tvalid : (s.commitError e).tvalid = false := rfl
@[simp] theorem State.commitError_plval : (s.commitError e).plval = false := rfl
@[simp] theorem State.commitError_rxLen : (s.commitError e).rxLen = s.rxLen := rfl
@[simp] theorem State.commitError_txLen : (s.commitError e).txLen = s.txLen := rfl
@[simp] theorem State.commitError_plLen : (s.commitError e).plLen = s.plLen := rfl
@[simp] theorem State.commitError_encId : (s.commitError e).encId = s.encId := rfl
@[simp] theorem State.commitError_encFlags : (s.commitError e).encFlags = s.encFlags := rfl
@[simp] theorem State.commitError_encCsr : (s.commitError e).encCsr = s.encCsr := rfl
@[simp] theorem State.commitError_crcOff : (s.commitError e).crcOff = s.crcOff := rfl
@[simp] theorem State.commitError_crcLen : (s.commitError e).crcLen = s.crcLen := rfl
@[simp] theorem State.commitError_crcResult : (s.commitError e).crcResult = s.crcResult := rfl
@[simp] theorem State.commitError_dSync : (s.commitError e).dSync = e.sync := rfl
@[simp] theorem State.commitError_dHdr : (s.commitError e).dHdr = 0 := rfl
@[simp] theorem State.commitError_dHcrcRx : (s.commitError e).dHcrcRx = 0 := rfl
@[simp] theorem State.commitError_dHcrcCalc : (s.commitError e).dHcrcCalc = 0 := rfl
@[simp] theorem State.commitError_dTcrcRx : (s.commitError e).dTcrcRx = 0 := rfl
@[simp] theorem State.commitError_dTcrcCalc : (s.commitError e).dTcrcCalc = 0 := rfl
@[simp] theorem State.commitError_dFlen : (s.commitError e).dFlen = e.flen := rfl
@[simp] theorem State.commitError_dRoute : (s.commitError e).dRoute = 0 := rfl
@[simp] theorem State.commitError_pInfo : (s.commitError e).pInfo = s.pInfo := rfl
@[simp] theorem State.commitError_record : (s.commitError e).record = s.record := rfl
@[simp] theorem State.commitError_pending : (s.commitError e).pending = s.pending := rfl
@[simp] theorem State.commitError_mem : (s.commitError e).mem = s.mem := rfl
@[simp] theorem State.commitError_inputs : (s.commitError e).inputs = s.inputs := rfl
@[simp] theorem State.commitError_hostRdata : (s.commitError e).hostRdata = s.hostRdata := rfl
@[simp] theorem State.commitError_draws : (s.commitError e).draws = s.draws := rfl

end CommitError

section Commit
variable (s : State) (k : SyncWord) (f : Frame)

@[simp] theorem State.commit_cmd : (s.commit k f).cmd = s.cmd := rfl
@[simp] theorem State.commit_busy : (s.commit k f).busy = s.busy := rfl
@[simp] theorem State.commit_done : (s.commit k f).done = s.done := rfl
@[simp] theorem State.commit_err : (s.commit k f).err = s.err := rfl
@[simp] theorem State.commit_overrun : (s.commit k f).overrun = s.overrun := rfl
@[simp] theorem State.commit_dvalid : (s.commit k f).dvalid = true := rfl
@[simp] theorem State.commit_rvalid : (s.commit k f).rvalid = s.rvalid := rfl
@[simp] theorem State.commit_hvalid :
    (s.commit k f).hvalid = (f.hcrc == crcW k (headerBytes k f.id f.flags f.csr f.payload.length)) := rfl
@[simp] theorem State.commit_tvalid : (s.commit k f).tvalid = (f.tcrc == crcW k f.payload) := rfl
@[simp] theorem State.commit_plval :
    (s.commit k f).plval = ((f.hcrc == crcW k (headerBytes k f.id f.flags f.csr f.payload.length)) && (f.tcrc == crcW k f.payload)) := rfl
@[simp] theorem State.commit_rxLen : (s.commit k f).rxLen = s.rxLen := rfl
@[simp] theorem State.commit_txLen : (s.commit k f).txLen = s.txLen := rfl
@[simp] theorem State.commit_plLen : (s.commit k f).plLen = BitVec.ofNat 8 f.payload.length := rfl
@[simp] theorem State.commit_encId : (s.commit k f).encId = s.encId := rfl
@[simp] theorem State.commit_encFlags : (s.commit k f).encFlags = s.encFlags := rfl
@[simp] theorem State.commit_encCsr : (s.commit k f).encCsr = s.encCsr := rfl
@[simp] theorem State.commit_crcOff : (s.commit k f).crcOff = s.crcOff := rfl
@[simp] theorem State.commit_crcLen : (s.commit k f).crcLen = s.crcLen := rfl
@[simp] theorem State.commit_crcResult : (s.commit k f).crcResult = s.crcResult := rfl
@[simp] theorem State.commit_dSync : (s.commit k f).dSync = dSyncWord k := rfl
@[simp] theorem State.commit_dHdr : (s.commit k f).dHdr = dHdrWord f.id f.flags f.csr f.payload.length := rfl
@[simp] theorem State.commit_dHcrcRx : (s.commit k f).dHcrcRx = f.hcrc := rfl
@[simp] theorem State.commit_dHcrcCalc :
    (s.commit k f).dHcrcCalc = crcW k (headerBytes k f.id f.flags f.csr f.payload.length) := rfl
@[simp] theorem State.commit_dTcrcRx : (s.commit k f).dTcrcRx = f.tcrc := rfl
@[simp] theorem State.commit_dTcrcCalc : (s.commit k f).dTcrcCalc = crcW k f.payload := rfl
@[simp] theorem State.commit_dFlen :
    (s.commit k f).dFlen = dFlenWord (frameLength k f.payload.length) (s.rxLen.toNat - frameLength k f.payload.length) := rfl
@[simp] theorem State.commit_dRoute : (s.commit k f).dRoute = demux f.id f.csr f.payload := rfl
@[simp] theorem State.commit_pInfo : (s.commit k f).pInfo = s.pInfo := rfl
@[simp] theorem State.commit_record : (s.commit k f).record = s.record := rfl
@[simp] theorem State.commit_pending : (s.commit k f).pending = s.pending := rfl
@[simp] theorem State.commit_mem : (s.commit k f).mem = s.mem.setMany (Buffer.plb.base + 0) f.payload := rfl
@[simp] theorem State.commit_inputs : (s.commit k f).inputs = s.inputs := rfl
@[simp] theorem State.commit_hostRdata : (s.commit k f).hostRdata = s.hostRdata := rfl
@[simp] theorem State.commit_draws : (s.commit k f).draws = s.draws := rfl

end Commit

section ClearRecord
variable (s : State)

@[simp] theorem State.clearRecord_cmd : (s.clearRecord).cmd = s.cmd := rfl
@[simp] theorem State.clearRecord_busy : (s.clearRecord).busy = s.busy := rfl
@[simp] theorem State.clearRecord_done : (s.clearRecord).done = s.done := rfl
@[simp] theorem State.clearRecord_err : (s.clearRecord).err = s.err := rfl
@[simp] theorem State.clearRecord_overrun : (s.clearRecord).overrun = s.overrun := rfl
@[simp] theorem State.clearRecord_dvalid : (s.clearRecord).dvalid = s.dvalid := rfl
@[simp] theorem State.clearRecord_rvalid : (s.clearRecord).rvalid = false := rfl
@[simp] theorem State.clearRecord_hvalid : (s.clearRecord).hvalid = s.hvalid := rfl
@[simp] theorem State.clearRecord_tvalid : (s.clearRecord).tvalid = s.tvalid := rfl
@[simp] theorem State.clearRecord_plval : (s.clearRecord).plval = s.plval := rfl
@[simp] theorem State.clearRecord_rxLen : (s.clearRecord).rxLen = s.rxLen := rfl
@[simp] theorem State.clearRecord_txLen : (s.clearRecord).txLen = s.txLen := rfl
@[simp] theorem State.clearRecord_plLen : (s.clearRecord).plLen = s.plLen := rfl
@[simp] theorem State.clearRecord_encId : (s.clearRecord).encId = s.encId := rfl
@[simp] theorem State.clearRecord_encFlags : (s.clearRecord).encFlags = s.encFlags := rfl
@[simp] theorem State.clearRecord_encCsr : (s.clearRecord).encCsr = s.encCsr := rfl
@[simp] theorem State.clearRecord_crcOff : (s.clearRecord).crcOff = s.crcOff := rfl
@[simp] theorem State.clearRecord_crcLen : (s.clearRecord).crcLen = s.crcLen := rfl
@[simp] theorem State.clearRecord_crcResult : (s.clearRecord).crcResult = s.crcResult := rfl
@[simp] theorem State.clearRecord_dSync : (s.clearRecord).dSync = s.dSync := rfl
@[simp] theorem State.clearRecord_dHdr : (s.clearRecord).dHdr = s.dHdr := rfl
@[simp] theorem State.clearRecord_dHcrcRx : (s.clearRecord).dHcrcRx = s.dHcrcRx := rfl
@[simp] theorem State.clearRecord_dHcrcCalc : (s.clearRecord).dHcrcCalc = s.dHcrcCalc := rfl
@[simp] theorem State.clearRecord_dTcrcRx : (s.clearRecord).dTcrcRx = s.dTcrcRx := rfl
@[simp] theorem State.clearRecord_dTcrcCalc : (s.clearRecord).dTcrcCalc = s.dTcrcCalc := rfl
@[simp] theorem State.clearRecord_dFlen : (s.clearRecord).dFlen = s.dFlen := rfl
@[simp] theorem State.clearRecord_dRoute : (s.clearRecord).dRoute = s.dRoute := rfl
@[simp] theorem State.clearRecord_pInfo : (s.clearRecord).pInfo = 0 := rfl
@[simp] theorem State.clearRecord_record : (s.clearRecord).record = Vector.replicate 32 0 := rfl
@[simp] theorem State.clearRecord_pending : (s.clearRecord).pending = s.pending := rfl
@[simp] theorem State.clearRecord_mem : (s.clearRecord).mem = s.mem := rfl
@[simp] theorem State.clearRecord_inputs : (s.clearRecord).inputs = s.inputs := rfl
@[simp] theorem State.clearRecord_hostRdata : (s.clearRecord).hostRdata = s.hostRdata := rfl
@[simp] theorem State.clearRecord_draws : (s.clearRecord).draws = s.draws := rfl

end ClearRecord

section SetRecord
variable (s : State) (sc : Schema) (payload : List Byte)

@[simp] theorem State.setRecord_cmd : (s.setRecord sc payload).cmd = s.cmd := rfl
@[simp] theorem State.setRecord_busy : (s.setRecord sc payload).busy = s.busy := rfl
@[simp] theorem State.setRecord_done : (s.setRecord sc payload).done = s.done := rfl
@[simp] theorem State.setRecord_err : (s.setRecord sc payload).err = s.err := rfl
@[simp] theorem State.setRecord_overrun : (s.setRecord sc payload).overrun = s.overrun := rfl
@[simp] theorem State.setRecord_dvalid : (s.setRecord sc payload).dvalid = s.dvalid := rfl
@[simp] theorem State.setRecord_rvalid : (s.setRecord sc payload).rvalid = true := rfl
@[simp] theorem State.setRecord_hvalid : (s.setRecord sc payload).hvalid = s.hvalid := rfl
@[simp] theorem State.setRecord_tvalid : (s.setRecord sc payload).tvalid = s.tvalid := rfl
@[simp] theorem State.setRecord_plval : (s.setRecord sc payload).plval = s.plval := rfl
@[simp] theorem State.setRecord_rxLen : (s.setRecord sc payload).rxLen = s.rxLen := rfl
@[simp] theorem State.setRecord_txLen : (s.setRecord sc payload).txLen = s.txLen := rfl
@[simp] theorem State.setRecord_plLen : (s.setRecord sc payload).plLen = s.plLen := rfl
@[simp] theorem State.setRecord_encId : (s.setRecord sc payload).encId = s.encId := rfl
@[simp] theorem State.setRecord_encFlags : (s.setRecord sc payload).encFlags = s.encFlags := rfl
@[simp] theorem State.setRecord_encCsr : (s.setRecord sc payload).encCsr = s.encCsr := rfl
@[simp] theorem State.setRecord_crcOff : (s.setRecord sc payload).crcOff = s.crcOff := rfl
@[simp] theorem State.setRecord_crcLen : (s.setRecord sc payload).crcLen = s.crcLen := rfl
@[simp] theorem State.setRecord_crcResult : (s.setRecord sc payload).crcResult = s.crcResult := rfl
@[simp] theorem State.setRecord_dSync : (s.setRecord sc payload).dSync = s.dSync := rfl
@[simp] theorem State.setRecord_dHdr : (s.setRecord sc payload).dHdr = s.dHdr := rfl
@[simp] theorem State.setRecord_dHcrcRx : (s.setRecord sc payload).dHcrcRx = s.dHcrcRx := rfl
@[simp] theorem State.setRecord_dHcrcCalc : (s.setRecord sc payload).dHcrcCalc = s.dHcrcCalc := rfl
@[simp] theorem State.setRecord_dTcrcRx : (s.setRecord sc payload).dTcrcRx = s.dTcrcRx := rfl
@[simp] theorem State.setRecord_dTcrcCalc : (s.setRecord sc payload).dTcrcCalc = s.dTcrcCalc := rfl
@[simp] theorem State.setRecord_dFlen : (s.setRecord sc payload).dFlen = s.dFlen := rfl
@[simp] theorem State.setRecord_dRoute : (s.setRecord sc payload).dRoute = s.dRoute := rfl
@[simp] theorem State.setRecord_pInfo : (s.setRecord sc payload).pInfo = pInfoWord sc s.plval := rfl
@[simp] theorem State.setRecord_record :
    (s.setRecord sc payload).record = recordOf (readFields sc.layout payload) := rfl
@[simp] theorem State.setRecord_pending : (s.setRecord sc payload).pending = s.pending := rfl
@[simp] theorem State.setRecord_mem : (s.setRecord sc payload).mem = s.mem := rfl
@[simp] theorem State.setRecord_inputs : (s.setRecord sc payload).inputs = s.inputs := rfl
@[simp] theorem State.setRecord_hostRdata : (s.setRecord sc payload).hostRdata = s.hostRdata := rfl
@[simp] theorem State.setRecord_draws : (s.setRecord sc payload).draws = s.draws := rfl

end SetRecord

section ReadKnown
variable (s : State) (v : Word)

@[simp] theorem State.readKnown_cmd : (s.readKnown v).cmd = s.cmd := rfl
@[simp] theorem State.readKnown_busy : (s.readKnown v).busy = s.busy := rfl
@[simp] theorem State.readKnown_done : (s.readKnown v).done = s.done := rfl
@[simp] theorem State.readKnown_err : (s.readKnown v).err = s.err := rfl
@[simp] theorem State.readKnown_overrun : (s.readKnown v).overrun = s.overrun := rfl
@[simp] theorem State.readKnown_dvalid : (s.readKnown v).dvalid = s.dvalid := rfl
@[simp] theorem State.readKnown_rvalid : (s.readKnown v).rvalid = s.rvalid := rfl
@[simp] theorem State.readKnown_hvalid : (s.readKnown v).hvalid = s.hvalid := rfl
@[simp] theorem State.readKnown_tvalid : (s.readKnown v).tvalid = s.tvalid := rfl
@[simp] theorem State.readKnown_plval : (s.readKnown v).plval = s.plval := rfl
@[simp] theorem State.readKnown_rxLen : (s.readKnown v).rxLen = s.rxLen := rfl
@[simp] theorem State.readKnown_txLen : (s.readKnown v).txLen = s.txLen := rfl
@[simp] theorem State.readKnown_plLen : (s.readKnown v).plLen = s.plLen := rfl
@[simp] theorem State.readKnown_encId : (s.readKnown v).encId = s.encId := rfl
@[simp] theorem State.readKnown_encFlags : (s.readKnown v).encFlags = s.encFlags := rfl
@[simp] theorem State.readKnown_encCsr : (s.readKnown v).encCsr = s.encCsr := rfl
@[simp] theorem State.readKnown_crcOff : (s.readKnown v).crcOff = s.crcOff := rfl
@[simp] theorem State.readKnown_crcLen : (s.readKnown v).crcLen = s.crcLen := rfl
@[simp] theorem State.readKnown_crcResult : (s.readKnown v).crcResult = s.crcResult := rfl
@[simp] theorem State.readKnown_dSync : (s.readKnown v).dSync = s.dSync := rfl
@[simp] theorem State.readKnown_dHdr : (s.readKnown v).dHdr = s.dHdr := rfl
@[simp] theorem State.readKnown_dHcrcRx : (s.readKnown v).dHcrcRx = s.dHcrcRx := rfl
@[simp] theorem State.readKnown_dHcrcCalc : (s.readKnown v).dHcrcCalc = s.dHcrcCalc := rfl
@[simp] theorem State.readKnown_dTcrcRx : (s.readKnown v).dTcrcRx = s.dTcrcRx := rfl
@[simp] theorem State.readKnown_dTcrcCalc : (s.readKnown v).dTcrcCalc = s.dTcrcCalc := rfl
@[simp] theorem State.readKnown_dFlen : (s.readKnown v).dFlen = s.dFlen := rfl
@[simp] theorem State.readKnown_dRoute : (s.readKnown v).dRoute = s.dRoute := rfl
@[simp] theorem State.readKnown_pInfo : (s.readKnown v).pInfo = s.pInfo := rfl
@[simp] theorem State.readKnown_record : (s.readKnown v).record = s.record := rfl
@[simp] theorem State.readKnown_pending : (s.readKnown v).pending = s.pending := rfl
@[simp] theorem State.readKnown_mem : (s.readKnown v).mem = s.mem := rfl
@[simp] theorem State.readKnown_inputs : (s.readKnown v).inputs = s.inputs := rfl
@[simp] theorem State.readKnown_hostRdata : (s.readKnown v).hostRdata = v := rfl
@[simp] theorem State.readKnown_draws : (s.readKnown v).draws = s.draws := rfl

end ReadKnown

end Sys2Proof.Machine
end

