-- ==== Sys2Proof/Laws/Exec.lean ====
section
/-! SUPPORT. What the shared operations can answer, said once each. -/

namespace Sys2Proof.Machine

@[simp] theorem withRead_ok {α : Type} (x : α) (go : α → Result) : withRead (.ok x) go = go x := rfl

@[simp] theorem withRead_error {α : Type} (f : Fault) (go : α → Result) :
    withRead (.error f : Except Fault α) go = .fault f := rfl

theorem withRead_eq_next {α : Type} {r : Except Fault α} {go : α → Result} {t : State} :
    withRead r go = .next t ↔ ∃ x, r = .ok x ∧ go x = .next t := by
  cases r with
  | error f => simp [withRead]
  | ok x => simp [withRead]

theorem withRead_eq_fault {α : Type} {r : Except Fault α} {go : α → Result} {f : Fault} :
    withRead r go = .fault f ↔ r = .error f ∨ ∃ x, r = .ok x ∧ go x = .fault f := by
  cases r with
  | error g => simp [withRead]
  | ok x => simp [withRead]

/-! ## The frame decoder -/

theorem width_pos (k : SyncWord) : 1 ≤ k.width ∧ k.width ≤ 4 := by
  cases k <;> decide

/-- The outcome of the pure frame decoder as the fetch reports it. -/
def fetched (r : Except FrameReject (SyncWord × Frame)) : Except DecodeError (SyncWord × Frame) :=
  match r with
  | .ok x => .ok x
  | .error e => .error (.frame e)

/-! ## Two ends of a command -/

/-- Every error completion and every success is a next state, with PENDING none, BUSY 0, DONE 1 (R193, R194). -/
theorem complete_eq_next {s t : State} : complete s = .next t ↔ s.finish .ok = t := by
  simp [complete]

theorem raise_eq_next {e : ErrCode} {s t : State} : raise e s = .next t ↔ s.finish e = t := by
  simp [raise]

/-- Everything a decode can answer (R148, R149). -/
theorem execDecode_eq_next {s t : State} (h : execDecode s = .next t) :
    (∃ e, fetchFrame s = .ok (.error e) ∧ t = (s.commitError e).finish e.errCode)
      ∨ ∃ k f, fetchFrame s = .ok (.ok (k, f)) ∧ t = (s.commit k f).finish .ok := by
  obtain ⟨r, hr, h⟩ := withRead_eq_next.mp h
  match r, hr, h with
  | .error e, hr, h => exact .inl ⟨e, hr, (raise_eq_next.mp h).symm⟩
  | .ok (k, f), hr, h => exact .inr ⟨k, f, hr, (complete_eq_next.mp h).symm⟩

/-- Everything the body of a payload decoding can answer (R175, R176). -/
theorem decodePayloadAs_eq_next {sc : Schema} {s t : State} (h : decodePayloadAs sc s = .next t) :
    (s.plLen.toNat ≠ sc.width ∧ t = s.clearRecord.finish .payloadLengthMismatch)
      ∨ (s.plLen.toNat = sc.width ∧ ∃ payload, readBytes s .plb 0 sc.width = .ok payload
          ∧ t = (s.setRecord sc payload).finish .ok) := by
  unfold decodePayloadAs at h
  split at h
  · rename_i hw
    obtain ⟨p, hp, h⟩ := withRead_eq_next.mp h
    exact .inr ⟨hw, p, hp, (complete_eq_next.mp h).symm⟩
  · rename_i hw
    exact .inl ⟨hw, (raise_eq_next.mp h).symm⟩

/-- Everything a checksum command can answer (R124, R125). -/
theorem crcCommand_eq_next {fn : List Byte → Word} {s t : State} (h : crcCommand fn s = .next t) :
    (Config.rxbSize < s.crcOff.toNat + s.crcLen.toNat ∧ t = ({ s with crcResult := 0 } : State).finish .range)
      ∨ ∃ bytes, readBytes s .rxb s.crcOff.toNat s.crcLen.toNat = .ok bytes
          ∧ t = ({ s with crcResult := fn bytes } : State).finish .ok := by
  unfold crcCommand at h
  dsimp only at h
  split at h
  · rename_i hr
    exact .inl ⟨hr, (raise_eq_next.mp h).symm⟩
  · obtain ⟨p, hp, h⟩ := withRead_eq_next.mp h
    exact .inr ⟨p, hp, (complete_eq_next.mp h).symm⟩

/-- Everything a frame row can answer (R141 to R149). -/
theorem acceptFrame_cases (k : SyncWord) (f : Frame) (s : State) :
    (∃ e, acceptFrame k f s = .next ((s.commitError e).finish e.errCode))
      ∨ acceptFrame k f s = .next ((s.commit k f).finish .ok) := by
  unfold acceptFrame
  dsimp only
  repeat' split
  all_goals first | exact .inr rfl | exact .inl ⟨_, rfl⟩

/-- The CODEC's turn with a legal command pending runs that command (R214). -/
theorem codecStep_command {s : State} {w : Word} {i : Instr} (hp : s.pending = some w) (hd : decodeCmd w = .ok i) :
    codecStep s = exec i s := by
  unfold codecStep
  rw [hp]
  dsimp only
  rw [hd]

/-- The CODEC's turn with an illegal command word pending (R191). -/
theorem codecStep_bad {s : State} {w : Word} {r : Reject} (hp : s.pending = some w) (hd : decodeCmd w = .error r) :
    codecStep s = badCommand s := by
  unfold codecStep
  rw [hp]
  dsimp only
  rw [hd]

/-- The step when it is the CODEC's turn. -/
theorem step_codecTurn {s : State} (h : s.inputs = [] ∨ ∃ rest, s.inputs = .codec :: rest) :
    step s = codecStep { s with inputs := s.inputs.tail } := by
  rcases h with h | ⟨rest, h⟩
  · unfold step
    rw [h]
    have : ({ s with inputs := [].tail } : State) = s := by cases s; simp_all
    rw [this]
  · unfold step
    rw [h]
    rfl

/-- An access inside the window reaches the block at its offset (R60). -/
theorem windowOffset_in_window (off : Nat) (h : off < Config.windowSize) :
    windowOffset (Config.codecBase + off) = some (BitVec.ofNat 12 off) := by
  unfold windowOffset
  rw [if_pos ⟨by omega, by omega⟩, Nat.add_sub_cancel_left]

end Sys2Proof.Machine
end

