-- ==== Sys2Proof/Laws/Fetch.lean ====
section
/-! SUPPORT. Said once: what the fetch of a frame from RXB answers, in terms of the bytes R153 lists. -/

namespace Sys2Proof.Machine

/-- A CODEC read is the first unwritten byte of its range, or the slice of any bytes that agree with the written ones. -/
theorem readBytes_eq_find {s : State} {b : Buffer} {bytes : List Byte} (a m : Nat)
    (h : ∀ i, a ≤ i → i < a + m → ∀ v, s.byte b i = some v → bytes[i]? = some v) :
    readBytes s b a m =
      match (List.range' a m).find? fun i => (s.byte b i).isNone with
      | some i => .error (.unwrittenRead b i)
      | none => .ok (slice bytes a m) := by
  induction m generalizing a with
  | zero => simp [readBytes_zero, slice]
  | succ m ih =>
    rw [readBytes_succ, List.range'_succ, List.find?_cons]
    cases hv : s.byte b a with
    | none => simp
    | some v =>
      have hb := h a (Nat.le_refl a) (by omega) v hv
      simp only [Option.isNone_some]
      rw [ih (a + 1) fun i h1 h2 => h i (by omega) (by omega)]
      cases List.find? (fun i => (s.byte b i).isNone) (List.range' (a + 1) m) with
      | some i => rfl
      | none =>
        obtain ⟨hlt, rfl⟩ := List.getElem?_eq_some_iff.mp hb
        simp only [slice]
        rw [List.drop_eq_getElem_cons hlt, List.take_succ_cons]

/-- The bytes agree with every written byte of RXB that DECODE reads. -/
def State.rxAgrees (s : State) (bytes : List Byte) : Prop :=
  ∀ i ∈ decodeReads bytes, ∀ v, s.byte .rxb i = some v → bytes[i]? = some v

theorem State.rxPresents.agrees {s : State} {bytes : List Byte} (h : s.rxPresents bytes) : s.rxAgrees bytes :=
  fun i hi _ hv => (h.2.2 i hi).symm.trans hv

/-- Every offset R153 lists is inside the receive buffer. -/
theorem decodeReads_lt {bytes : List Byte} {i : Nat} (h : i ∈ decodeReads bytes) : i < bytes.length := by
  unfold decodeReads at h
  dsimp only at h
  split at h
  · cases h
  · rw [List.mem_append] at h
    rcases h with h | h
    · simp only [List.mem_cons, List.not_mem_nil, or_false] at h
      omega
    · split at h
      · cases h
      · rename_i k _
        have := width_pos k
        split at h
        · cases h
        · rw [List.mem_append] at h
          rcases h with h | h
          · simp only [List.mem_cons, List.not_mem_nil, or_false] at h
            omega
          · split at h
            · cases h
            · simp only [List.mem_map, List.mem_range] at h
              obtain ⟨j, hj, rfl⟩ := h
              omega

theorem State.rxMayHold.agrees {s : State} {bytes : List Byte} (h : s.rxMayHold bytes) : s.rxAgrees bytes :=
  fun i hi v hv => h.2.2 i v (decodeReads_lt hi) hv

theorem State.rxPresents.firstUnwritten {s : State} {bytes : List Byte} (h : s.rxPresents bytes) :
    s.firstUnwritten bytes = none := by
  refine List.find?_eq_none.mpr fun i hi => ?_
  rw [h.2.2 i hi, List.getElem?_eq_getElem (decodeReads_lt hi)]
  simp

/-- A whole written buffer presents its bytes. -/
theorem rxPresents_of_written {s : State} {bytes : List Byte} (hn : s.rxLen.toNat ≤ Config.rxbSize)
    (h : readBytes s .rxb 0 s.rxLen.toNat = .ok bytes) : s.rxPresents bytes := by
  obtain ⟨hl, hb⟩ := readBytes_eq_ok_iff.mp h
  refine ⟨hn, hl, fun i hi => ?_⟩
  have := hb i (hl ▸ decodeReads_lt hi)
  rwa [Nat.zero_add] at this

/-- The offsets read after the header, in the three parts that the decoder reads them in. -/
theorem range_split (w L : Nat) :
    (List.range (w + L + w)).map (6 + ·) = List.range' 6 w ++ (List.range' (6 + w) L ++ List.range' (6 + w + L) w) := by
  rw [← List.range'_eq_map_range, ← List.append_assoc, List.range'_append_1, Nat.add_assoc 6 w L,
    List.range'_append_1]

/-- The fetch faults at the first unwritten byte that R153 lists, and otherwise is the pure decoder on the bytes. -/
theorem fetchFrame_eq {s : State} {bytes : List Byte} (hn : s.rxLen.toNat ≤ Config.rxbSize)
    (hl : bytes.length = s.rxLen.toNat) (h : s.rxAgrees bytes) :
    fetchFrame s =
      match s.firstUnwritten bytes with
      | some i => .error (.unwrittenRead .rxb i)
      | none => .ok (fetched (decodeFrame bytes)) := by
  have rd : ∀ a m, (∀ i, a ≤ i → i < a + m → i ∈ decodeReads bytes) → readBytes s .rxb a m = _ := fun a m ha =>
    readBytes_eq_find (bytes := bytes) a m fun i h1 h2 => h i (ha i h1 h2)
  unfold fetchFrame
  dsimp only
  rw [if_neg (by omega)]
  unfold State.firstUnwritten decodeFrame decodeFrameFrom
  rw [hl]
  by_cases h2 : s.rxLen.toNat < 2
  · have : decodeReads bytes = [] := by
      unfold decodeReads
      simp only [hl, if_pos h2]
    simp [h2, this, fetched]
  · rw [if_neg h2, if_neg h2]
    have r0 := rd 0 2 fun i _ hi => by
      unfold decodeReads
      simp only [hl, if_neg h2, List.mem_append, List.mem_cons]
      omega
    simp only [r0, bind, Except.bind]
    have e0 : List.range' 0 2 = [0, 1] := rfl
    have e2 : List.range' 2 4 = [2, 3, 4, 5] := rfl
    rw [e0]
    have hd : decodeReads bytes = [0, 1] ++ (decodeReads bytes).drop 2 := by
      unfold decodeReads
      simp only [hl, if_neg h2]
      rfl
    rw [hd, List.find?_append]
    cases hf0 : List.find? (fun i => (s.byte .rxb i).isNone) [0, 1] with
    | some i => simp
    | none =>
      simp only [Option.none_or]
      cases hk : SyncWord.ofValue ((leValue (slice bytes 0 2)).setWidth 16) with
      | none =>
        have : (decodeReads bytes).drop 2 = [] := by
          unfold decodeReads
          simp only [hl, if_neg h2, hk]
          rfl
        simp [this, fetched]
      | some k =>
        simp only [frameAfterSync]
        by_cases h6 : s.rxLen.toNat < 6 + 2 * k.width
        · have : (decodeReads bytes).drop 2 = [] := by
            unfold decodeReads
            simp only [hl, if_neg h2, hk, if_pos h6]
            rfl
          simp [this, h6, fetched]
        · rw [if_neg h6, if_neg h6]
          have hw := width_pos k
          have r2 := rd 2 4 fun i _ hi => by
            unfold decodeReads
            simp only [hl, if_neg h2, hk, if_neg h6, List.mem_append, List.mem_cons]
            omega
          simp only [r2, bind, Except.bind]
          rw [e2]
          have hd : (decodeReads bytes).drop 2 = [2, 3, 4, 5] ++ (decodeReads bytes).drop 6 := by
            unfold decodeReads
            simp only [hl, if_neg h2, hk, if_neg h6]
            rfl
          rw [hd, List.find?_append]
          cases hf2 : List.find? (fun i => (s.byte .rxb i).isNone) [2, 3, 4, 5] with
          | some i => simp
          | none =>
            simp only [Option.none_or]
            have h5 : (slice bytes 2 4).getD 3 0 = bytes.getD 5 0 := by
              simp [slice, List.getD]
            rw [h5]
            unfold frameAfterHeader
            dsimp only
            have h255 : bytes.getD 5 0 = 0xFF ↔ (bytes.getD 5 0).toNat = 0xFF := by
              rw [← BitVec.toNat_inj]
              rfl
            by_cases hx : bytes.getD 5 0 = 0xFF
            · have : (decodeReads bytes).drop 6 = [] := by
                unfold decodeReads
                simp only [hl, if_neg h2, hk, if_neg h6, if_pos (Or.inl (h255.mp hx))]
                rfl
              rw [this, if_pos hx, if_pos hx]
              rfl
            · rw [if_neg hx, if_neg hx]
              by_cases hL : s.rxLen.toNat < 6 + k.width + (bytes.getD 5 0).toNat + k.width
              · have : (decodeReads bytes).drop 6 = [] := by
                  unfold decodeReads
                  simp only [hl, if_neg h2, hk, if_neg h6, if_pos (Or.inr hL)]
                  rfl
                rw [this, if_pos hL, if_pos hL]
                rfl
              · rw [if_neg hL, if_neg hL]
                have hd : decodeReads bytes = [0, 1] ++ ([2, 3, 4, 5] ++
                    (List.range (k.width + (bytes.getD 5 0).toNat + k.width)).map (6 + ·)) := by
                  unfold decodeReads
                  simp only [hl, if_neg h2, hk, if_neg h6,
                    if_neg (fun hor => Or.elim hor (fun e => hx (h255.mpr e)) hL)]
                have hm : ∀ i, 6 ≤ i → i < 6 + k.width + (bytes.getD 5 0).toNat + k.width → i ∈ decodeReads bytes := by
                  intro i h1 h2
                  rw [hd, List.mem_append, List.mem_append, List.mem_map]
                  exact .inr (.inr ⟨i - 6, List.mem_range.mpr (by omega), by omega⟩)
                have r6 := rd 6 k.width fun i h1 h2 => hm i h1 (by omega)
                have r7 := rd (6 + k.width) (bytes.getD 5 0).toNat fun i h1 h2 => hm i (by omega) (by omega)
                have r8 := rd (6 + k.width + (bytes.getD 5 0).toNat) k.width fun i h1 h2 => hm i (by omega) (by omega)
                have hdrop : (decodeReads bytes).drop 6 =
                    (List.range (k.width + (bytes.getD 5 0).toNat + k.width)).map (6 + ·) := by
                  rw [hd]
                  rfl
                rw [hdrop, range_split, List.find?_append, List.find?_append, r6]
                cases List.find? (fun i => (s.byte .rxb i).isNone) (List.range' 6 k.width) with
                | some i => rfl
                | none =>
                  simp only [bind, Except.bind, Option.none_or, r7]
                  cases List.find? (fun i => (s.byte .rxb i).isNone)
                      (List.range' (6 + k.width) (bytes.getD 5 0).toNat) with
                  | some i => rfl
                  | none =>
                    simp only [Option.none_or, r8]
                    cases List.find? (fun i => (s.byte .rxb i).isNone)
                        (List.range' (6 + k.width + (bytes.getD 5 0).toNat) k.width) with
                    | some i => rfl
                    | none => rfl

/-- On a buffer that presents bytes, the fetch is the pure decoder on them. -/
theorem fetchFrame_of_presents {s : State} {bytes : List Byte} (h : s.rxPresents bytes) :
    fetchFrame s = .ok (fetched (decodeFrame bytes)) := by
  rw [fetchFrame_eq h.1 h.2.1 h.agrees, h.firstUnwritten]

end Sys2Proof.Machine
end

