-- ==== Sys2Proof/Laws/Inversion.lean ====
section
/-! SUPPORT. Said once: everything a command can write before it completes, and everything a step can do. Claims about all
commands and all steps are case analyses of these two. -/

namespace Sys2Proof.Machine

/-- `Writes i s u`: u is what instruction i can have made of s when it completes or raises, before the completion itself.
A checksum-failing or refused command is among the cases. -/
inductive Writes : Instr → State → State → Prop where
  /-- NOP, BadSchema -/
  | nothing (i : Instr) (s : State) : Writes i s s
  /-- CRC8, CRC32, Range among them -/
  | crc (i : Instr) (s : State) (v : Word) (hi : i = .crc8 ∨ i = .crc32) : Writes i s { s with crcResult := v }
  /-- ENCODE, EncodePrecondition -/
  | encodeFails (sel : BitVec 2) (s : State) : Writes (.encode sel) s { s with txLen := 0 }
  /-- ENCODE -/
  | encodes (sel : BitVec 2) (s : State) (payload : List Byte) (hs : sel.toNat < 2) (hl : payload.length ≤ 254) :
      Writes (.encode sel) s
        { s.writeBytes .txb 0 (buildFrame (SyncWord.ofSel sel) s.encId s.encFlags s.encCsr payload) with
          txLen := BitVec.ofNat 16
            (buildFrame (SyncWord.ofSel sel) s.encId s.encFlags s.encCsr payload).length }
  /-- a decode that fails -/
  | decodeFails (i : Instr) (s : State) (e : DecodeError) (hi : decodesFrame i = true) : Writes i s (s.commitError e)
  /-- a decode that commits -/
  | commits (i : Instr) (s : State) (k : SyncWord) (f : Frame) (hi : decodesFrame i = true)
      (hl : f.payload.length ≤ 254) : Writes i s (s.commit k f)
  /-- a payload decoding that fails -/
  | clears (i : Instr) (s : State) (hi : writesRecord i = true) : Writes i s s.clearRecord
  /-- a payload decoding -/
  | records (i : Instr) (s : State) (sc : Schema) (payload : List Byte) (hi : writesRecord i = true) :
      Writes i s (s.setRecord sc payload)
  /-- DECODE_DISPATCH whose decode fails -/
  | dispatchFails (sel : BitVec 4) (s : State) (e : DecodeError) :
      Writes (.decodeDispatch sel) s (s.clearRecord.commitError e)
  /-- DECODE_DISPATCH of a committed frame without a record: NotValidated, PayloadLengthMismatch -/
  | dispatchClears (sel : BitVec 4) (s : State) (k : SyncWord) (f : Frame) (hl : f.payload.length ≤ 254) :
      Writes (.decodeDispatch sel) s (s.commit k f).clearRecord
  /-- DECODE_DISPATCH -/
  | dispatchRecords (sel : BitVec 4) (s : State) (k : SyncWord) (f : Frame) (sc : Schema) (payload : List Byte)
      (hl : f.payload.length ≤ 254) (hh : f.hcrc = crcW k (headerBytes k f.id f.flags f.csr f.payload.length))
      (ht : f.tcrc = crcW k f.payload) :
      Writes (.decodeDispatch sel) s ((s.commit k f).setRecord sc payload)

theorem except_bind_ok {ε α β : Type} {r : Except ε α} {g : α → Except ε β} {y : β} (h : (r >>= g) = .ok y) :
    ∃ x, r = .ok x ∧ g x = .ok y := by
  cases r with
  | error e => cases h
  | ok x => exact ⟨x, rfl, h⟩

/-- A frame that the stages accept from RXB has at most 254 payload bytes and fits in RX_LEN. -/
theorem fetchFrame_bounds {s : State} {k : SyncWord} {f : Frame} (h : fetchFrame s = .ok (.ok (k, f))) :
    s.rxLen.toNat ≤ 512 ∧ f.payload.length ≤ 254 ∧ frameLength k f.payload.length ≤ s.rxLen.toNat := by
  unfold fetchFrame at h
  dsimp only at h
  split at h
  · cases h
  · rename_i hn
    split at h
    · cases h
    · cases h
    · rename_i x hx
      cases h
      unfold decodeFrameFrom at hx
      split at hx
      · cases hx
      · obtain ⟨b, hb, hx⟩ := except_bind_ok hx
        dsimp only at hx
        split at hx
        · cases hx
        · rename_i k' hk'
          unfold frameAfterSync at hx
          split at hx
          · cases hx
          · obtain ⟨hd, hhd, hx⟩ := except_bind_ok hx
            unfold frameAfterHeader at hx
            dsimp only at hx
            split at hx
            · cases hx
            · rename_i hff
              split at hx
              · cases hx
              · rename_i hlen
                obtain ⟨a, ha, hx⟩ := except_bind_ok hx
                obtain ⟨p, hp, hx⟩ := except_bind_ok hx
                obtain ⟨c, hc, hx⟩ := except_bind_ok hx
                cases hx
                have hpl := readBytes_length hp
                have hL : (hd.getD 3 0).toNat ≠ 255 := fun he => hff (BitVec.eq_of_toNat_eq (by simpa using he))
                have hlt := (hd.getD 3 0).isLt
                refine ⟨Nat.not_lt.mp hn, ?_, ?_⟩
                · show p.length ≤ 254
                  omega
                · show frameLength k p.length ≤ s.rxLen.toNat
                  unfold frameLength
                  rw [hpl]
                  omega

theorem decodePayloadAs_writes {sc : Schema} {s t : State} (h : decodePayloadAs sc s = .next t) :
    ∃ e, t = s.clearRecord.finish e ∨ ∃ payload, t = (s.setRecord sc payload).finish e := by
  rcases decodePayloadAs_eq_next h with ⟨-, h⟩ | ⟨-, p, -, h⟩
  · exact ⟨_, .inl h⟩
  · exact ⟨_, .inr ⟨p, h⟩⟩

/-- Everything a decode can answer, for what is then done with the frame. -/
theorem withFrame_eq_next {s t : State} {fails : DecodeError → Result} {found : SyncWord → Frame → Result}
    (h : withFrame s fails found = .next t) :
    (∃ e, fails e = .next t) ∨ ∃ k f, f.payload.length ≤ 254 ∧ found k f = .next t := by
  obtain ⟨r, hr, h⟩ := withRead_eq_next.mp h
  match r, hr, h with
  | .error e, _, h => exact .inl ⟨e, h⟩
  | .ok (k, f), hr, h => exact .inr ⟨k, f, (fetchFrame_bounds hr).2.1, h⟩

theorem acceptFrame_writes {k : SyncWord} {f : Frame} {s t : State} (h : acceptFrame k f s = .next t) :
    (∃ e : DecodeError, t = (s.commitError e).finish e.errCode)
      ∨ (f.payload.length ≤ 254 ∧ t = (s.commit k f).finish .ok) := by
  unfold acceptFrame at h
  dsimp only at h
  repeat' split at h
  all_goals first
    | (cases h; exact .inl ⟨_, rfl⟩)
    | (cases h; exact .inr ⟨by omega, rfl⟩)

/-- Everything an instruction can do when it answers a next state. -/
theorem exec_eq_next {i : Instr} {s t : State} (h : exec i s = .next t) : ∃ e u, t = State.finish u e ∧ Writes i s u := by
  have crc : ∀ {fn}, (i = .crc8 ∨ i = .crc32) → crcCommand fn s = .next t → ∃ e u, t = State.finish u e ∧ Writes i s u := by
    intro fn hi h
    rcases crcCommand_eq_next h with ⟨-, h⟩ | ⟨b, -, h⟩
    · exact ⟨_, _, h, .crc i s _ hi⟩
    · exact ⟨_, _, h, .crc i s _ hi⟩
  have frame : ∀ {k f}, decodesFrame i = true → acceptFrame k f s = .next t →
      ∃ e u, t = State.finish u e ∧ Writes i s u := by
    intro k f hi h
    rcases acceptFrame_writes h with ⟨e, h⟩ | ⟨hl, h⟩
    · exact ⟨_, _, h, .decodeFails i s e hi⟩
    · exact ⟨_, _, h, .commits i s k f hi hl⟩
  have csr : ∀ {b}, decodesFrame i = true → decodeWithCsr b s = .next t →
      ∃ e u, t = State.finish u e ∧ Writes i s u := by
    intro b hi h
    rcases withFrame_eq_next h with ⟨e, h⟩ | ⟨k, f, hl, h⟩
    · cases h
      exact ⟨_, _, rfl, .decodeFails i s e hi⟩
    · cases h
      exact ⟨_, _, rfl, .commits i s k { f with csr := b } hi hl⟩
  have payload : ∀ {sc}, writesRecord i = true → decodePayloadAs sc s = .next t →
      ∃ e u, t = State.finish u e ∧ Writes i s u := by
    intro sc hi h
    obtain ⟨e, h | ⟨p, h⟩⟩ := decodePayloadAs_writes h
    · exact ⟨_, _, h, .clears i s hi⟩
    · exact ⟨_, _, h, .records i s sc p hi⟩
  cases i with
  | nop => cases h; exact ⟨_, _, rfl, .nothing _ _⟩
  | crc8 => exact crc (.inl rfl) h
  | crc32 => exact crc (.inr rfl) h
  | encode sel =>
    simp only [exec, execEncode] at h
    split at h
    · cases h; exact ⟨_, _, rfl, .encodeFails sel s⟩
    · split at h
      · cases h; exact ⟨_, _, rfl, .encodeFails sel s⟩
      · rename_i h1 h2
        obtain ⟨p, hp, h⟩ := withRead_eq_next.mp h
        cases h
        have hpl := readBytes_length hp
        have h255 : s.plLen.toNat ≠ 255 := fun he => h2 (BitVec.eq_of_toNat_eq (by simpa using he))
        have hlt := s.plLen.isLt
        exact ⟨_, _, rfl, .encodes sel s p (by omega) (by omega)⟩
  | decode =>
    rcases withFrame_eq_next h with ⟨e, h⟩ | ⟨k, f, hl, h⟩
    · cases h; exact ⟨_, _, rfl, .decodeFails _ s e rfl⟩
    · cases h; exact ⟨_, _, rfl, .commits _ s k f rfl hl⟩
  | decodePayload sel =>
    simp only [exec, execDecodePayload] at h
    split at h
    · cases h; exact ⟨_, _, rfl, .nothing _ _⟩
    · exact payload rfl h
  | decodeDispatch sel =>
    simp only [exec, execDecodeDispatch] at h
    split at h
    · cases h; exact ⟨_, _, rfl, .nothing _ _⟩
    · rcases withFrame_eq_next h with ⟨e, h⟩ | ⟨k, f, hl, h⟩
      · cases h; exact ⟨_, _, rfl, .dispatchFails sel s e⟩
      · unfold dispatchCommitted at h
        split at h
        · rename_i hv
          obtain ⟨e, h | ⟨p, h⟩⟩ := decodePayloadAs_writes h
          · exact ⟨_, _, h, .dispatchClears sel s k f hl⟩
          · simp only [State.commit_hvalid, State.commit_tvalid, Bool.and_eq_true, beq_iff_eq] at hv
            exact ⟨_, _, h, .dispatchRecords sel s k f _ p hl hv.1 hv.2⟩
        · cases h; exact ⟨_, _, rfl, .dispatchClears sel s k f hl⟩
  | requestCrc8 f => exact frame rfl h
  | requestCrc32 f => exact frame rfl h
  | responseCrc8 f => exact frame rfl h
  | responseCrc32 f => exact frame rfl h
  | deviceReg b => exact csr rfl h
  | custom => exact csr rfl h
  | configSize => exact csr rfl h
  | configData => exact csr rfl h
  | nodeId => exact csr rfl h
  | groupId => exact csr rfl h
  | deviceId => exact csr rfl h
  | utility => exact csr rfl h
  | reservedF b => exact csr rfl h
  | motor => exact payload rfl h
  | light => exact payload rfl h
  | bam => exact payload rfl h

/-- What a step can make of s, up to the inputs still to come. -/
inductive Moves : State → State → Prop where
  /-- no command pending, or an access that is not the block's -/
  | idles (s : State) : Moves s s
  /-- the pending command ran -/
  | runs (s : State) (w : Word) (i : Instr) (e : ErrCode) (u : State) (hp : s.pending = some w)
      (hd : decodeCmd w = .ok i) (hw : Writes i s u) : Moves s (u.finish e)
  /-- the pending word is no command -/
  | badCommand (s : State) (w : Word) (hp : s.pending = some w) : Moves s (s.finish .badCommand)
  /-- rst -/
  | resets (s : State) : Moves s s.rst
  /-- a host read -/
  | reads (s : State) (v : Word) (d : Nat) : Moves s { s with hostRdata := v, draws := d }
  /-- a host write while BUSY = 1 -/
  | overruns (s : State) (hb : s.busy = true) : Moves s { s with overrun := true }
  /-- a host write of a register while BUSY = 0 -/
  | writesReg (s : State) (r : Reg) (v : Word) (hb : s.busy = false) : Moves s (s.writeReg r v)
  /-- a host write of a buffer byte while BUSY = 0 -/
  | writesByte (s : State) (b : Buffer) (j : Nat) (v : Byte) (hb : s.busy = false) (hj : j < b.size) :
      Moves s (s.writeByte b j v)

theorem target_byte_lt {off n j : Nat} {b : Buffer} (h : target off n = some (.byte b j)) : j < b.size := by
  unfold target at h
  split at h
  · split at h
    · simp at h
    · cases h
  · repeat' split at h
    all_goals cases h
    all_goals simp only [Buffer.size, Config.rxbSize, Config.txbSize, Config.plbSize]; omega

theorem readReg_moves (s : State) (r : Reg) : Moves s (s.readReg r) := by
  unfold State.readReg
  split
  · exact .reads s _ _
  · exact .reads s _ s.draws

theorem readByte_moves (s : State) (b : Buffer) (j : Nat) : Moves s (s.readByte b j) := by
  unfold State.readByte
  split
  · split
    · exact .reads s _ _
    · exact .reads s _ s.draws
  · exact .reads s _ _

theorem codecStep_moves {s t : State} (h : codecStep s = .next t) : Moves s t := by
  unfold codecStep at h
  split at h
  · cases h; exact .idles s
  · rename_i w hw
    split at h
    · rename_i i hi
      obtain ⟨e, u, rfl, hu⟩ := exec_eq_next h
      exact .runs s w i e u hw hi hu
    · cases h; exact .badCommand s w hw

theorem hostRead_moves {s t : State} {off : BitVec 12} {n : Nat} (h : hostRead off n s = .next t) : Moves s t := by
  unfold hostRead at h
  split at h
  · cases h
  · cases h; exact readReg_moves s _
  · cases h; exact readByte_moves s _ _

theorem hostWrite_moves {s t : State} {off : BitVec 12} {n : Nat} {v : Word} (h : hostWrite off n v s = .next t) :
    Moves s t := by
  unfold hostWrite at h
  split at h
  · cases h
  · rename_i tg htg
    split at h
    · rename_i hb
      cases h; exact .overruns s hb
    · rename_i hb
      have hb : s.busy = false := by simpa using hb
      split at h
      · cases h; exact .writesReg s _ v hb
      · cases h; exact .writesByte s _ _ _ hb (target_byte_lt htg)

theorem busAccess_moves {s t : State} {addr : Nat} {go : BitVec 12 → Result} (h : busAccess addr s go = .next t)
    (hgo : ∀ off, go off = .next t → Moves s t) : Moves s t := by
  unfold busAccess at h
  split at h
  · cases h; exact .idles s
  · exact hgo _ h

theorem advance_of_cons {s : State} {x : Input} {rest : List Input} (h : s.inputs = x :: rest) :
    ({ s with inputs := rest } : State) = s.advance := by
  simp [State.advance, h]

/-- Everything a step can do when it answers a next state: it takes the next input away and makes one move. -/
theorem step_eq_next {s t : State} (h : step s = .next t) : Moves s.advance t := by
  unfold step at h
  split at h
  · rename_i hi
    have : s.advance = s := by cases s; simp_all [State.advance]
    rw [this]
    exact codecStep_moves h
  · rename_i rest hi
    rw [advance_of_cons hi] at h
    exact codecStep_moves h
  · rename_i rest hi
    cases h
    have : ({ s.rst with inputs := rest } : State) = s.advance.rst := by simp [State.advance, State.rst, hi]
    rw [this]
    exact .resets _
  · rename_i addr n rest hi
    rw [advance_of_cons hi] at h
    exact busAccess_moves h fun off h => hostRead_moves h
  · rename_i addr n v rest hi
    rw [advance_of_cons hi] at h
    exact busAccess_moves h fun off h => hostWrite_moves h

end Sys2Proof.Machine
end

