-- ==== Sys2Proof/Laws/PerInstr.lean ====
section
/-! SUPPORT. Per-instruction laws: the code of every instruction is of its row's format and has its row's size (R84 for a
frame, R103 for a command word). -/

namespace Sys2Proof.Laws

open Sys2Proof.Machine

theorem leBytes_length (n : Nat) (v : Word) : (leBytes n v).length = n := by
  induction n generalizing v with
  | zero => rfl
  | succ n ih => simp [leBytes, ih]

/-- The length of a frame (R84, R133). -/
theorem encodeFrame_length (k : SyncWord) (f : Frame) :
    (encodeFrame k f).length = 6 + k.width + f.payload.length + k.width := by
  simp [encodeFrame, headerBytes, leBytes_length]
  omega

/-- The bytes a row's code takes: R84 for a frame, 4 for a command word, 1 for a csrAddress or a selector. -/
def codeSize : Instr → Nat
  | .nop => 4
  | .crc8 => 4
  | .crc32 => 4
  | .encode _ => 4
  | .decode => 4
  | .decodePayload _ => 4
  | .decodeDispatch _ => 4
  | .requestCrc8 f => 6 + 1 + f.payload.length + 1
  | .requestCrc32 f => 6 + 4 + f.payload.length + 4
  | .responseCrc8 f => 6 + 1 + f.payload.length + 1
  | .responseCrc32 f => 6 + 4 + f.payload.length + 4
  | .deviceReg _ => 1
  | .custom => 1
  | .configSize => 1
  | .configData => 1
  | .nodeId => 1
  | .groupId => 1
  | .deviceId => 1
  | .utility => 1
  | .reservedF _ => 1
  | .motor => 1
  | .light => 1
  | .bam => 1

/-- The code is of the row's format and size. -/
def EncodeShape.Statement (i : Instr) : Prop :=
  (encode i).format = i.format ∧ (encode i).size = codeSize i

namespace EncodeShape

theorem nop : Statement .nop := ⟨rfl, rfl⟩
theorem crc8 : Statement .crc8 := ⟨rfl, rfl⟩
theorem crc32 : Statement .crc32 := ⟨rfl, rfl⟩
theorem encode (syncsel : BitVec 2) : Statement (.encode syncsel) := ⟨rfl, rfl⟩
theorem decode : Statement .decode := ⟨rfl, rfl⟩
theorem decodePayload (schema : BitVec 4) : Statement (.decodePayload schema) := ⟨rfl, rfl⟩
theorem decodeDispatch (schema : BitVec 4) : Statement (.decodeDispatch schema) := ⟨rfl, rfl⟩
theorem requestCrc8 (f : Frame) : Statement (.requestCrc8 f) := ⟨rfl, encodeFrame_length .requestCrc8 f⟩
theorem requestCrc32 (f : Frame) : Statement (.requestCrc32 f) := ⟨rfl, encodeFrame_length .requestCrc32 f⟩
theorem responseCrc8 (f : Frame) : Statement (.responseCrc8 f) := ⟨rfl, encodeFrame_length .responseCrc8 f⟩
theorem responseCrc32 (f : Frame) : Statement (.responseCrc32 f) := ⟨rfl, encodeFrame_length .responseCrc32 f⟩
theorem deviceReg (csr : Byte) : Statement (.deviceReg csr) := ⟨rfl, rfl⟩
theorem custom : Statement .custom := ⟨rfl, rfl⟩
theorem configSize : Statement .configSize := ⟨rfl, rfl⟩
theorem configData : Statement .configData := ⟨rfl, rfl⟩
theorem nodeId : Statement .nodeId := ⟨rfl, rfl⟩
theorem groupId : Statement .groupId := ⟨rfl, rfl⟩
theorem deviceId : Statement .deviceId := ⟨rfl, rfl⟩
theorem utility : Statement .utility := ⟨rfl, rfl⟩
theorem reservedF (csr : Byte) : Statement (.reservedF csr) := ⟨rfl, rfl⟩
theorem motor : Statement .motor := ⟨rfl, rfl⟩
theorem light : Statement .light := ⟨rfl, rfl⟩
theorem bam : Statement .bam := ⟨rfl, rfl⟩

end EncodeShape

end Sys2Proof.Laws
end

