-- ==== Sys2Proof/Machine/HostProgram.lean ====
section
/-! DEFINITION. The host notation of 30_encoding.md R105 and R106: one line is one bus access, and a pseudo-instruction
is its expansion. The control flow inside `wait` and `copy` belongs to the host processor, outside the block (R106). -/

namespace Sys2Proof.Machine

/-- `wr REG, imm32` (R105). -/
def wr (r : Reg) (v : Word) : Input :=
  .write (Config.codecBase + r.offset) 4 v

/-- `rd REG` (R105). -/
def rd (r : Reg) : Input :=
  .read (Config.codecBase + r.offset) 4

/-- `wrb BUF[i], imm8` (R105). -/
def wrb (b : Buffer) (i : Nat) (v : Byte) : Input :=
  .write (Config.codecBase + (b.base + i)) 1 (v.setWidth 32)

/-- `rdb BUF[i]` (R105). -/
def rdb (b : Buffer) (i : Nat) : Input :=
  .read (Config.codecBase + (b.base + i)) 1

/-- `wrb` of consecutive bytes from index i on. -/
def wrbMany (b : Buffer) (i : Nat) : List Byte → List Input
  | [] => []
  | v :: vs => wrb b i v :: wrbMany b (i + 1) vs

/-- `load RXB, b0 b1 ...` (R106). -/
def loadRxb (bytes : List Byte) : List Input :=
  wr .rxLen (BitVec.ofNat 32 bytes.length) :: wrbMany .rxb 0 bytes

/-- `load PLB, b0 b1 ...` (R106). -/
def loadPlb (bytes : List Byte) : List Input :=
  wr .plLen (BitVec.ofNat 32 bytes.length) :: wrbMany .plb 0 bytes

/-- `cmd OP [, sync=S] [, schema=K]` (R106): the write of a command word. -/
def cmd (op : BitVec 4) (sync : BitVec 2) (schema : BitVec 4) : Input :=
  wr .cmd (cmdWord op sync schema)

/-- `hdr ID, FLAGS, CSR` (R106). -/
def hdr (id flags csr : Byte) : Input :=
  wr .encHdr (id.setWidth 32 ||| (flags.setWidth 32 <<< 8) ||| (csr.setWidth 32 <<< 16))

/-- The iterations of `copy TXB, RXB` from index i on (R106): `rdb TXB[i] -> v; wrb RXB[i], v`, the list holding the
values that the reads return. -/
def copyBytes (i : Nat) : List Byte → List Input
  | [] => []
  | v :: vs => rdb .txb i :: wrb .rxb i v :: copyBytes (i + 1) vs

/-- `copy TXB, RXB` (R106): `rd TX_LEN -> n`, the n iterations, `wr RX_LEN, n`. The values that the reads return decide
the accesses that follow, and that is the host processor's control flow: `bytes` are the n values read from TXB. Log 15. -/
def copyTxbRxb (bytes : List Byte) : List Input :=
  rd .txLen :: (copyBytes 0 bytes ++ [wr .rxLen (BitVec.ofNat 32 bytes.length)])

/-- The accesses of a `wait` that polls n times while BUSY = 1 and once after the CODEC's turn (R106, R215). -/
def waitPolls (n : Nat) : List Input :=
  List.replicate n (rd .status) ++ [.codec, rd .status]

end Sys2Proof.Machine
end

