-- ==== Sys2Proof/Tests/Slice0.lean ====
section
/-! SUPPORT. The model's own tests. Expected values come from spec/95_test_vectors.md (the vector is named in the comment) or
are counted out by hand from the rule named. The second half shows, for each obligation with hypotheses, concrete values
that meet them. -/

open Sys2Proof Sys2Proof.Machine

namespace Sys2Proof.Tests

set_option Elab.async false

/-! ## Helpers -/

/-- The light vector (V-DEC-1). -/
def light : List Byte :=
  [0xF0, 0x0F, 0x3D, 0x02, 0xF0, 0x0E, 0xC3, 0x17, 0xC1, 0xD4, 0x83, 0x00, 0xF2, 0x3B, 0x42, 0x66, 0xE6, 0x83, 0xBE, 0x00,
   0x00, 0x48, 0x42, 0x08, 0xDF, 0xF7, 0xFE, 0x56, 0xFF]

/-- Its payload. -/
def lightPayload : List Byte :=
  [0x83, 0x00, 0xF2, 0x3B, 0x42, 0x66, 0xE6, 0x83, 0xBE, 0x00, 0x00, 0x48, 0x42, 0x08]

/-- Its frame. -/
def lightFrame : Frame := ⟨0x3D, 0x02, 0xF0, 0xD4C117C3, lightPayload, 0x56FEF7DF⟩

/-- V-PAY-1's payload. -/
def motorPayload : List Byte :=
  [0x00, 0x80, 0xBB, 0x44, 0x00, 0x00, 0x40, 0x41, 0x00, 0x00, 0x20, 0x40, 0x00, 0x00, 0x0C, 0x42, 0x00]

/-- V-PAY-6's payload. -/
def bamPayload : List Byte :=
  [0x53, 0x43, 0x4E, 0x49, 0x64, 0x02, 0x00, 0x40, 0x22, 0x33, 0x05, 0x00, 0xFF, 0xFF, 0xFF, 0x7F]
  ++ [0x00, 0x00, 0x80, 0x3F, 0x00, 0x00, 0x00, 0x40, 0x00, 0x00, 0x80, 0xBF, 0x00, 0x00, 0x00, 0x3F]
  ++ [0x00, 0x00, 0x80, 0x3E, 0x00, 0x00, 0x00, 0x3E, 0x00, 0x00, 0xC8, 0x42, 0x00, 0x00, 0x40, 0x40]
  ++ [0x00, 0x00, 0x80, 0x40, 0x00, 0x00, 0x20, 0x41, 0x00, 0x00, 0xA0, 0x41, 0x00, 0x00, 0xF0, 0x41]
  ++ (List.range 40).map fun i => BitVec.ofNat 8 (0x40 + i)

/-- Reset with RXB holding the bytes and RX_LEN their length. -/
def rx (bytes : List Byte) : State :=
  { State.reset.writeBytes .rxb 0 bytes with rxLen := BitVec.ofNat 16 bytes.length }

/-- The same with the command word issued. -/
def rxCmd (bytes : List Byte) (w : Word) : State := (rx bytes).issue w

/-- Reset with PLB holding the bytes and PL_LEN their length. -/
def pl (bytes : List Byte) : State :=
  { State.reset.writeBytes .plb 0 bytes with plLen := BitVec.ofNat 8 bytes.length }

/-- The answer is a next state that p holds of. -/
def nextIs (r : Result) (p : State → Bool) : Bool :=
  match r with
  | .next t => p t
  | .fault _ => false
  | .refused _ => false

/-- The answer is this fault. -/
def faultIs (r : Result) (f : Fault) : Bool :=
  match r with
  | .next _ => false
  | .fault g => g == f
  | .refused _ => false

/-- A computation answers this value. -/
def okIs {ε α : Type} [DecidableEq α] (r : Except ε α) (x : α) : Bool :=
  match r with
  | .ok y => y == x
  | .error _ => false

/-- A computation answers this error. -/
def errIs {ε α : Type} [DecidableEq ε] (r : Except ε α) (e : ε) : Bool :=
  match r with
  | .ok _ => false
  | .error g => g == e

theorem ok_of_okIs {ε α : Type} [DecidableEq α] {r : Except ε α} {x : α} (h : okIs r x = true) : r = .ok x := by
  cases r with
  | error e => cases h
  | ok y => rw [eq_of_beq h]

theorem error_of_errIs {ε α : Type} [DecidableEq ε] {r : Except ε α} {e : ε} (h : errIs r e = true) : r = .error e := by
  cases r with
  | ok y => cases h
  | error g => rw [eq_of_beq h]

theorem next_of_nextIs {r : Result} {p : State → Bool} (h : nextIs r p = true) : ∃ t, r = .next t ∧ p t = true := by
  cases r with
  | next t => exact ⟨t, rfl, h⟩
  | fault f => cases h
  | refused f => cases h

theorem fault_of_faultIs {r : Result} {f : Fault} (h : faultIs r f = true) : r = .fault f := by
  cases r with
  | next t => cases h
  | fault g => rw [eq_of_beq h]
  | refused g => cases h

/-! ## Well-formed terms (R80, R83, R84, R163) -/

theorem test_wf_refuses_long_payload : (Instr.requestCrc32 ⟨0, 0, 0, 0, List.replicate 255 0, 0⟩).wf = false := by
  decide +kernel

theorem test_wf_refuses_wide_header_checksum : (Instr.requestCrc8 ⟨0, 0, 0, 0x100, [], 0⟩).wf = false := by decide

theorem test_wf_refuses_wide_total_checksum : (Instr.responseCrc8 ⟨0, 0, 0, 0, [], 0x100⟩).wf = false := by decide

theorem test_wf_refuses_device_reg_of_reserved_range : (Instr.deviceReg 0xF0).wf = false := by decide

theorem test_wf_refuses_reserved_f_of_a_named_class :
    (Instr.reservedF 0xF0).wf = false ∧ (Instr.reservedF 0xFE).wf = false ∧ (Instr.reservedF 0xEF).wf = false := by decide

theorem test_wf_accepts_bounds :
    (Instr.responseCrc8 ⟨0, 0, 0, 0xFF, List.replicate 254 0, 0xFF⟩).wf = true
      ∧ (Instr.responseCrc32 ⟨0, 0, 0, 0xFFFFFFFF, List.replicate 254 0, 0xFFFFFFFF⟩).wf = true
      ∧ (Instr.deviceReg 0xEF).wf = true ∧ (Instr.reservedF 0xFF).wf = true := by decide +kernel

/-! ## Decoding: words written out from R81, R87, R100 to R103 and R163 -/

theorem test_decode_legal_command_words :
    okIs (decode (.cmd 0x00000000)) .nop ∧ okIs (decode (.cmd 0x00000001)) .crc8
      ∧ okIs (decode (.cmd 0x00000002)) .crc32 ∧ okIs (decode (.cmd 0x00000003)) (.encode 0)
      ∧ okIs (decode (.cmd 0x00000013)) (.encode 1) ∧ okIs (decode (.cmd 0x00000004)) .decode
      ∧ okIs (decode (.cmd 0x00000005)) (.decodePayload 0) ∧ okIs (decode (.cmd 0x00000105)) (.decodePayload 1)
      ∧ okIs (decode (.cmd 0x00000205)) (.decodePayload 2) ∧ okIs (decode (.cmd 0x00000006)) (.decodeDispatch 0)
      ∧ okIs (decode (.cmd 0x00000106)) (.decodeDispatch 1)
      ∧ okIs (decode (.cmd 0x00000206)) (.decodeDispatch 2) := by decide +kernel

/-- V-CMD-2 to V-CMD-8. -/
theorem test_decode_rejects_bad_command_words :
    ([0x07, 0x0F, 0x14, 0x104, 0x40, 0x80, 0x1000, 0x80000000, 0x10, 0x313] : List Word).all
      (fun w => errIs (decode (.cmd w)) (.badCommand w)) = true := by decide +kernel

/-- V-ENC-7, V-ENC-8 and V-PAY-8: reserved selector values are operands, not BadCommand. -/
theorem test_decode_accepts_reserved_selectors :
    okIs (decode (.cmd 0x23)) (.encode 2) ∧ okIs (decode (.cmd 0x33)) (.encode 3)
      ∧ okIs (decode (.cmd 0x305)) (.decodePayload 3) ∧ okIs (decode (.cmd 0xF06)) (.decodeDispatch 15) := by
  decide +kernel

/-- R81's wire bytes of each sync word. -/
theorem test_decode_sync_words :
    okIs (decode (.frame [0xFA, 0xAF, 0x01, 0x02, 0x03, 0x01, 0x11, 0xAB, 0x22]))
        (.requestCrc8 ⟨0x01, 0x02, 0x03, 0x11, [0xAB], 0x22⟩)
      ∧ okIs (decode (.frame [0xFD, 0xDF, 0x01, 0x02, 0x03, 0x01, 0x11, 0xAB, 0x22]))
        (.responseCrc8 ⟨0x01, 0x02, 0x03, 0x11, [0xAB], 0x22⟩)
      ∧ okIs (decode (.frame [0xF5, 0x5F, 1, 2, 3, 0, 0x44, 0x33, 0x22, 0x11, 0x88, 0x77, 0x66, 0x55]))
        (.requestCrc32 ⟨1, 2, 3, 0x11223344, [], 0x55667788⟩)
      ∧ okIs (decode (.frame light)) (.responseCrc32 lightFrame) := by decide +kernel

/-- V-DEC-5b: the byte-swapped table value is no sync word. -/
theorem test_decode_rejects_swapped_sync :
    errIs (decode (.frame [0xDF, 0xFD, 0, 0, 0, 0, 0, 0])) (.frame (.unknownSync 0xFDDF)) := by decide +kernel

/-- R163's table: the first and last address of each class. -/
theorem test_decode_csr_classes :
    okIs (decode (.csr 0x00)) (.deviceReg 0x00) ∧ okIs (decode (.csr 0xEF)) (.deviceReg 0xEF)
      ∧ okIs (decode (.csr 0xF0)) .custom ∧ okIs (decode (.csr 0xF5)) .configSize
      ∧ okIs (decode (.csr 0xF7)) .configData ∧ okIs (decode (.csr 0xFB)) .nodeId
      ∧ okIs (decode (.csr 0xFC)) .groupId ∧ okIs (decode (.csr 0xFD)) .deviceId
      ∧ okIs (decode (.csr 0xFE)) .utility
      ∧ ([0xF1, 0xF2, 0xF3, 0xF4, 0xF6, 0xF8, 0xF9, 0xFA, 0xFF] : List Byte).all
          (fun b => okIs (decode (.csr b)) (.reservedF b)) = true := by decide +kernel

/-- R102's table. -/
theorem test_decode_schemas :
    okIs (decode (.schema 0)) .motor ∧ okIs (decode (.schema 1)) .light ∧ okIs (decode (.schema 2)) .bam
      ∧ errIs (decode (.schema 3)) (.reservedSchema 3) ∧ errIs (decode (.schema 15)) (.reservedSchema 15) := by
  decide +kernel

/-- Table words as spec/opcode_table.json numbers them (log 14). -/
theorem test_decode_table_words :
    decodeTableWord 32 0x05 = some (.decodePayload 0) ∧ decodeTableWord 16 0xAFFA = some (.requestCrc8 ⟨0, 0, 0, 0, [], 0⟩)
      ∧ decodeTableWord 16 0x5FF5 = some (.requestCrc32 ⟨0, 0, 0, 0, [], 0⟩)
      ∧ decodeTableWord 16 0xDFFD = some (.responseCrc8 ⟨0, 0, 0, 0, [], 0⟩)
      ∧ decodeTableWord 16 0x0FF0 = some (.responseCrc32 ⟨0, 0, 0, 0, [], 0⟩)
      ∧ decodeTableWord 8 0xFE = some .utility ∧ decodeTableWord 24 2 = some .bam := by decide +kernel

/-! ## Checksums and frames -/

/-- V-CRC-2, V-CRC-3, V-CRC-5 to V-CRC-9. -/
theorem test_crc32_vectors :
    crc32Fn [0x31, 0x32, 0x33, 0x34, 0x35, 0x36, 0x37, 0x38, 0x39] = 0xCBF43926 ∧ crc32Fn [] = 0
      ∧ crc32Fn [0x00] = 0xD202EF8D ∧ crc32Fn [0x01] = 0xA505DF1B ∧ crc32Fn [0xFF] = 0xFF000000
      ∧ crc32Fn [0xF0, 0x0F, 0x3D, 0x02, 0xF0, 0x0E] = 0xD4C117C3
      ∧ crc32Fn [0x53, 0x43, 0x4E, 0x49] = 0xEBDAD776 := by decide +kernel

/-- V-CRC-1, V-CRC-4 to V-CRC-7 under CRC-8/SMBUS. -/
theorem test_crc8_smbus_vectors :
    crc8Smbus [0x31, 0x32, 0x33, 0x34, 0x35, 0x36, 0x37, 0x38, 0x39] = 0xF4 ∧ crc8Smbus [] = 0
      ∧ crc8Smbus [0x00] = 0 ∧ crc8Smbus [0x01] = 0x07 ∧ crc8Smbus [0xFF] = 0xF3 := by decide +kernel

/-- V-RT-1, V-ENC-2. -/
theorem test_build_crc32_frames :
    buildFrame .responseCrc32 0x3D 0x02 0xF0 lightPayload = light.take 28
      ∧ buildFrame .requestCrc32 0x01 0x00 0x10 []
        = [0xF5, 0x5F, 0x01, 0x00, 0x10, 0x00, 0x27, 0x04, 0xA0, 0xBC, 0x00, 0x00, 0x00, 0x00] := by decide +kernel

/-- V-ENC-3, V-ENC-4 and V-RT-2 under CRC-8/SMBUS. -/
theorem test_build_crc8_frames :
    buildFrameWith crc8Smbus .requestCrc8 0x01 0x00 0xFE [0xAD, 0xDE]
        = [0xFA, 0xAF, 0x01, 0x00, 0xFE, 0x02, 0x3B, 0xAD, 0xDE, 0xE5]
      ∧ buildFrameWith crc8Smbus .requestCrc8 0xFF 0x00 0x00 [] = [0xFA, 0xAF, 0xFF, 0x00, 0x00, 0x00, 0x30, 0x00]
      ∧ buildFrameWith crc8Smbus .responseCrc8 0x07 0x00 0x10 []
        = [0xFD, 0xDF, 0x07, 0x00, 0x10, 0x00, 0x95, 0x00] := by decide +kernel

/-! ## Commands -/

/-- V-CMD-1: NOP after an error. -/
theorem test_nop : nextIs (exec .nop { rx [] with err := .truncatedFrame }) (fun t => t.statusWord == 0x2) := by
  decide +kernel

/-- V-CRC-10: an offset range. -/
theorem test_crc32 :
    nextIs (exec .crc32 { rx light with crcOff := 10, crcLen := 14 })
      (fun t => t.crcResult == 0x56FEF7DF && t.statusWord == 0x2) := by decide +kernel

/-- V-CRC-11, V-CRC-12, V-CRC-14: the end of RXB, and a byte never written. -/
theorem test_crc32_bounds :
    nextIs (exec .crc32 { State.reset with crcOff := 512, crcLen := 0 }) (fun t => t.crcResult == 0 && t.err == .ok)
      ∧ nextIs (exec .crc32 { State.reset with crcOff := 511, crcLen := 2, crcResult := 5 })
          (fun t => t.crcResult == 0 && t.statusWord == 0x82)
      ∧ faultIs (exec .crc32 { State.reset with crcLen := 1 }) (.unwrittenRead .rxb 0) := by decide +kernel

/-- V-CRC-12, V-CRC-14 for CRC8. -/
theorem test_crc8_bounds :
    nextIs (exec .crc8 { State.reset with crcOff := 511, crcLen := 2 }) (fun t => t.statusWord == 0x82)
      ∧ faultIs (exec .crc8 { State.reset with crcLen := 1 }) (.unwrittenRead .rxb 0)
      ∧ nextIs (exec .crc8 { rx light with crcOff := 2, crcLen := 1 }) (fun t => t.statusWord == 0x2) := by
  decide +kernel

/-- V-ENC-1. -/
theorem test_encode :
    nextIs (exec (.encode 1) { pl lightPayload with encId := 0x3D, encFlags := 0x02, encCsr := 0xF0 })
      (fun t => t.txLen == 28 && t.statusWord == 0x2
        && okIs (readBytes t .txb 0 28)
          ([0xF5, 0x5F, 0x3D, 0x02, 0xF0, 0x0E, 0xBB, 0x49, 0x1F, 0xBC] ++ lightPayload ++ [0xDF, 0xF7, 0xFE, 0x56])) := by
  decide +kernel

/-- V-ENC-7, V-ENC-9, V-ENC-10. -/
theorem test_encode_stops :
    nextIs (exec (.encode 2) { State.reset with txLen := 9 }) (fun t => t.txLen == 0 && t.err == .encodePrecondition)
      ∧ nextIs (exec (.encode 1) { State.reset with txLen := 9, plLen := 255 })
          (fun t => t.txLen == 0 && t.err == .encodePrecondition)
      ∧ faultIs (exec (.encode 1) { pl [0xAD] with plLen := 2 }) (.unwrittenRead .plb 1) := by decide +kernel

/-- V-DEC-1, all of it. -/
theorem test_decode_light :
    nextIs (exec .decode (rx light)) (fun t =>
      t.statusWord == 0x3A02 && t.dSync == 0x00030FF0 && t.dHdr == 0x0EF0023D && t.dHcrcRx == 0xD4C117C3
        && t.dHcrcCalc == 0xD4C117C3 && t.dTcrcRx == 0x56FEF7DF && t.dTcrcCalc == 0x56FEF7DF
        && t.dFlen == 0x0001001C && t.dRoute == 0x00013D00 && t.plLen == 14
        && okIs (readBytes t .plb 0 14) lightPayload) := by decide +kernel

/-- V-DEC-3, V-DEC-7b, V-DEC-7c, V-DEC-9, V-DEC-10, V-DEC-19. -/
theorem test_decode_errors :
    nextIs (exec .decode { rx light with rxLen := 27 })
        (fun t => t.statusWord == 0x22 && t.dSync == 0x00030FF0 && t.dFlen == 0x1C && t.dHdr == 0)
      ∧ nextIs (exec .decode (rx [0xFD, 0xDF, 0x01, 0x00, 0x00, 0xFF, 0x00])) (fun t => t.err == .truncatedFrame && t.dFlen == 8)
      ∧ nextIs (exec .decode (rx [0xFD, 0xDF, 0x01, 0x00, 0x00, 0xFF, 0x00, 0x00]))
          (fun t => t.err == .unsupportedExtendedLength && t.dSync == 0x0001DFFD && t.dFlen == 0)
      ∧ nextIs (exec .decode { rx light with rxLen := 513 }) (fun t => t.err == .range && t.dSync == 0)
      ∧ nextIs (exec .decode (rx (light.set 27 0x57)))
          (fun t => t.statusWord == 0xA02 && t.dTcrcRx == 0x57FEF7DF && t.dTcrcCalc == 0x56FEF7DF && t.plLen == 14)
      ∧ faultIs (exec .decode { rx (light.take 3) with rxLen := 29 }) (.unwrittenRead .rxb 3) := by decide +kernel

/-- V-PAY-1, V-PAY-2, V-PAY-8, V-PAY-9. -/
theorem test_decode_payload :
    nextIs (exec (.decodePayload 0) (pl motorPayload)) (fun t =>
        t.record.toList.take 6 == [0x44BB8000, 0x41400000, 0x40200000, 0x420C0000, 0, 0] && t.pInfo == 0x500
          && t.statusWord == 0x402)
      ∧ nextIs (exec (.decodePayload 0) { pl motorPayload with plLen := 16, rvalid := true, pInfo := 7 })
          (fun t => t.statusWord == 0x42 && t.pInfo == 0)
      ∧ nextIs (exec (.decodePayload 3) { pl motorPayload with rvalid := true, pInfo := 7 })
          (fun t => t.statusWord == 0x462 && t.pInfo == 7)
      ∧ faultIs (exec (.decodePayload 0) { pl (motorPayload.take 16) with plLen := 17 }) (.unwrittenRead .plb 16) := by
  decide +kernel

/-- V-PAY-10, its five rows. -/
theorem test_decode_dispatch :
    nextIs (exec (.decodeDispatch 1) (rx light)) (fun t =>
        t.statusWord == 0x3E02 && t.pInfo == 0x10501
          && t.record.toList.take 6 == [0x83, 0x423BF200, 0xBE83E666, 0x42480000, 0x08, 0])
      ∧ nextIs (exec (.decodeDispatch 1) (rx (light.set 27 0x57)))
          (fun t => t.statusWord == 0xA92 && t.pInfo == 0 && t.plLen == 14)
      ∧ nextIs (exec (.decodeDispatch 0) (rx light)) (fun t => t.statusWord == 0x3A42 && t.dvalid)
      ∧ nextIs (exec (.decodeDispatch 1)
            (rx [0xFD, 0xDF, 0x68, 0x80, 0, 0x0D, 3, 0, 0, 0x82, 0, 0, 0, 0xD8, 0x68, 0x14, 0x84, 0x29, 0x48]))
          (fun t => t.statusWord == 0x22 && t.dFlen == 0x15 && t.dSync == 0x0001DFFD)
      ∧ nextIs (exec (.decodeDispatch 3) { State.reset with rxLen := 9 }) (fun t => t.statusWord == 0x62) := by
  decide +kernel

/-! ## Rows that are no command -/

/-- V-DEC-15's frame as a row, in a buffer of exactly its length and in one a byte short. -/
theorem test_request_crc32_row :
    nextIs (exec (.requestCrc32 ⟨0x3D, 0x02, 0xF0, 0xBC1F49BB, lightPayload, 0x56FEF7DF⟩) { State.reset with rxLen := 28 })
        (fun t => t.statusWord == 0x3A02 && t.dSync == 0x00025FF5 && t.dFlen == 0x1C && t.dRoute == 0x00013D00)
      ∧ nextIs (exec (.requestCrc32 ⟨0x3D, 0x02, 0xF0, 0xBC1F49BB, lightPayload, 0x56FEF7DF⟩)
          { State.reset with rxLen := 27 }) (fun t => t.statusWord == 0x22 && t.dSync == 0x00025FF5) := by decide +kernel

/-- V-DEC-1's frame as a row. -/
theorem test_response_crc32_row :
    nextIs (exec (.responseCrc32 lightFrame) { State.reset with rxLen := 29 })
      (fun t => t.statusWord == 0x3A02 && t.dSync == 0x00030FF0 && t.dFlen == 0x0001001C) := by decide +kernel

/-- D_SYNC and D_HDR of V-DEC-17's and V-DEC-13's frames, which no CRC-8 function changes. -/
theorem test_crc8_rows :
    nextIs (exec (.requestCrc8 ⟨0x01, 0, 0xFE, 0x3B, [0xAD, 0xDE], 0xE5⟩) { State.reset with rxLen := 10 })
        (fun t => t.dSync == 0x0000AFFA && t.dHdr == 0x02FE0001 && t.dRoute == 0x00070108 && t.dvalid)
      ∧ nextIs (exec (.responseCrc8 ⟨0x10, 0, 0x20, 0xEC, [0x0D, 0x94, 0x7A], 0x01⟩) { State.reset with rxLen := 17 })
        (fun t => t.dHdr == 0x03200010 && t.dHcrcRx == 0xEC && t.dFlen == 0x0006000B && t.dRoute == 0x00001000) := by
  decide +kernel

/-- V-DMX-1 to V-DMX-17. -/
theorem test_demux_vectors :
    demux 0x00 0x00 [] = 0x00000000 ∧ demux 0x3F 0xEF [] = 0x00003F00 ∧ demux 0x40 0xF0 [] = 0x00010004
      ∧ demux 0x80 0xF1 [] = 0x00080002 ∧ demux 0xBF 0xF5 [] = 0x00023F02 ∧ demux 0xC0 0xF7 [] = 0x00030006
      ∧ demux 0xFE 0xFB [] = 0x00043E06 ∧ demux 0xFF 0xFC [] = 0x00053F01 ∧ demux 0x01 0xFD [] = 0x00060100
      ∧ demux 0x01 0xFE [0xAD, 0xDE] = 0x00070108 ∧ demux 0x01 0xFE [0xDE, 0xAD] = 0x00070100
      ∧ demux 0x01 0xFE [0xAD, 0xDE, 0x00] = 0x00070100 ∧ demux 0x01 0xFF [] = 0x00080100
      ∧ demux 0xFF 0xFE [0xAD, 0xDE] = 0x00073F09 ∧ demux 0x01 0xF0 [0xAD, 0xDE] = 0x00010100 := by decide +kernel

/-- The csr rows on the light vector's frame: CSRCLASS of R163's table, id 0x3D as in V-DEC-1. -/
theorem test_csr_rows :
    ([(.deviceReg 0x20, 0x00003D00), (.custom, 0x00013D00), (.configSize, 0x00023D00), (.configData, 0x00033D00),
      (.nodeId, 0x00043D00), (.groupId, 0x00053D00), (.deviceId, 0x00063D00), (.utility, 0x00073D00),
      (.reservedF 0xFA, 0x00083D00)] : List (Instr × Word)).all
      (fun p => nextIs (exec p.1 (rx light)) (fun t => t.dRoute == p.2 && t.dvalid)) = true := by decide +kernel

/-- V-PAY-1, V-PAY-5, and V-PAY-6 without a decode (SRCVAL 0), as schema rows. -/
theorem test_schema_rows :
    nextIs (exec .motor (pl motorPayload)) (fun t => t.record[0] == 0x44BB8000 && t.pInfo == 0x500)
      ∧ nextIs (exec .light (pl (motorPayload.take 14)))
          (fun t => t.record.toList.take 6 == [0, 0x0044BB80, 0x00414000, 0x00402000, 0, 0])
      ∧ nextIs (exec .bam { pl bamPayload with plval := true }) (fun t =>
          t.pInfo == 0x00011E02
            && t.record.toList
              == [0x494E4353, 0x64, 2, 0x4000, 0x3322, 5, 0, 0x7FFFFFFF, 0x3F800000, 0x40000000, 0xBF800000]
                ++ [0x3F000000, 0x3E800000, 0x3E000000, 0x42C80000, 0x40400000, 0x40800000]
                ++ [0x41200000, 0x41A00000, 0x41F00000]
                ++ [0x43424140, 0x47464544, 0x4B4A4948, 0x4F4E4D4C, 0x53525150, 0x57565554, 0x5B5A5958, 0x5F5E5D5C]
                ++ [0x63626160, 0x67666564, 0, 0]) := by decide +kernel

/-! ## The step -/

/-- V-CMD-2: a bad command from reset. -/
theorem test_step_bad_command :
    nextIs (step (State.reset.issue 7)) (fun t => t.statusWord == 0x52 && t.cmd == 7) := by decide +kernel

/-- V-RST-1: DECODE from reset is truncated. -/
theorem test_step_decode_from_reset :
    nextIs (step (State.reset.issue 4)) (fun t => t.statusWord == 0x22 && t.dFlen == 2) := by decide +kernel

/-- R210: rst during a command. -/
theorem test_step_rst :
    nextIs (step { rxCmd light 4 with inputs := [.rst] })
      (fun t => t == State.reset) := by decide +kernel

/-- The next access is this write of a register. -/
def writeNext (r : Reg) (v : Word) (s : State) : State := { s with inputs := [wr r v] }

theorem step_writeNext (r : Reg) (v : Word) (s : State) (h : r.offset < 4096) :
    step (writeNext r v s) = hostWrite (BitVec.ofNat 12 r.offset) 4 v { s with inputs := [] } := by
  show busAccess _ _ _ = _
  unfold busAccess
  rw [windowOffset_in_window _ h]
  rfl

/-- P5: `wr RX_LEN, 5` in its two interleavings, and the STATUS write that clears OVERRUN. -/
theorem test_step_writes :
    nextIs (step (writeNext .rxLen 5 (rxCmd light 4))) (fun t => t.overrun && t.rxLen == 29) = true
      ∧ nextIs (step (writeNext .rxLen 5 (rx light))) (fun t => !t.overrun && t.rxLen == 5) = true
      ∧ nextIs (step (writeNext .status 0x100 { rx light with overrun := true })) (fun t => !t.overrun) = true
      ∧ nextIs (step (writeNext .cmd 4 (rx light))) (fun t => t.pending == some 4 && t.statusWord == 1) = true := by
  rw [step_writeNext _ _ _ (by decide), step_writeNext _ _ _ (by decide), step_writeNext _ _ _ (by decide),
    step_writeNext _ _ _ (by decide)]
  decide +kernel

/-- R106's expansion of `copy TXB, RXB` for a frame of two bytes, written out as bus accesses. -/
theorem test_copy_expansion :
    copyTxbRxb [0xAD, 0xDE]
      = [.read (Config.codecBase + 0x00C) 4,
         .read (Config.codecBase + 0x600) 1, .write (Config.codecBase + 0x400) 1 0xAD,
         .read (Config.codecBase + 0x601) 1, .write (Config.codecBase + 0x401) 1 0xDE,
         .write (Config.codecBase + 0x008) 4 2] := rfl

/-- withFetchWord places each row where the next step runs it (log 15). -/
theorem test_step_runs_fetch_words :
    ([(32, 0x00), (32, 0x02), (32, 0x13), (32, 0x04), (32, 0x05), (32, 0x106), (16, 0x5FF5), (16, 0x0FF0),
      (8, 0x20), (8, 0xF0), (8, 0xF5), (8, 0xF7), (8, 0xFB), (8, 0xFC), (8, 0xFD), (8, 0xFE), (8, 0xFF),
      (4, 0), (16, 1), (8, 2)] : List (Nat × Nat)).all
      (fun p => match decodeTableWord p.1 p.2 with
        | some i => nextIs (step (State.reset.withFetchWord p.1 p.2))
            (fun t => nextIs (exec i (State.reset.withFetchWord p.1 p.2)) (fun u => t == u))
        | none => false) = true := by decide +kernel

/-! ## Witnesses: values that meet the hypotheses of each obligation -/

/-- The light vector in RXB under DECODE. -/
abbrev L4 : State := rxCmd light 4

theorem light_held : L4.rxPresents light := ⟨by decide, by decide, by decide +kernel⟩

/-- RXB holds the light frame but not its surplus byte, which DECODE does not read (R146, R153). -/
abbrev U4 : State := { rxCmd (light.take 28) 4 with rxLen := 29 }

theorem light_held_without_surplus : U4.rxPresents light ∧ U4.byte .rxb 28 = none :=
  ⟨⟨by decide, by decide, by decide +kernel⟩, by decide +kernel⟩

theorem light_decodes : decodeFrame light = .ok (.responseCrc32, lightFrame) := ok_of_okIs (by decide +kernel)

theorem witness_RstStepResetsEveryRegister :
    ({ L4 with inputs := [.rst, .codec] } : State).inputs = .rst :: [.codec] ∧ L4.busy = true ∧ L4.rxLen ≠ 0 := by
  decide +kernel

theorem witness_StepRunsPendingCommand :
    L4.codecTurn ∧ L4.pending = some 4 ∧ decode (.cmd 4) = .ok .decode :=
  ⟨.inl rfl, rfl, ok_of_okIs (by decide)⟩

/-- The turn as an input. -/
theorem witness_StepRunsPendingCommand_turn :
    ({ L4 with inputs := [.codec, rd .status] } : State).codecTurn := .inr ⟨_, rfl⟩

theorem witness_StepRunsFrameInRxb :
    L4.codecTurn ∧ L4.pending = some 4 ∧ decode (.cmd 4) = .ok .decode ∧ L4.rxPresents light
      ∧ decode (.frame light) = .ok (.responseCrc32 lightFrame) :=
  ⟨.inl rfl, rfl, ok_of_okIs (by decide), light_held, ok_of_okIs (by decide +kernel)⟩

theorem witness_StepRunsSelectorRows_csr :
    L4.codecTurn ∧ L4.pending = some 4 ∧ decode (.cmd 4) = .ok .decode ∧ L4.rxPresents light
      ∧ decodeFrame light = .ok (.responseCrc32, lightFrame) ∧ decode (.csr lightFrame.csr) = .ok .custom :=
  ⟨.inl rfl, rfl, ok_of_okIs (by decide), light_held, light_decodes, ok_of_okIs (by decide)⟩

theorem witness_StepRunsSelectorRows_schema :
    ((pl lightPayload).issue 0x105).codecTurn ∧ ((pl lightPayload).issue 0x105).pending = some 0x105
      ∧ decode (.cmd 0x105) = .ok (.decodePayload 1) ∧ decode (.schema 1) = .ok .light :=
  ⟨.inl rfl, rfl, ok_of_okIs (by decide), ok_of_okIs (by decide)⟩

theorem witness_IdleCodecTurnDoesNothing : (rx light).codecTurn ∧ (rx light).pending = none := ⟨.inl rfl, rfl⟩

/-- A word on each side of each clause: opcode 7 and 6, bits 6 and 12, SYNCSEL without ENCODE and with it, SCHEMA without
a payload command and with one. -/
theorem witness_IllegalCommandWordsFail :
    (State.reset.issue 7).codecTurn ∧ (State.reset.issue 7).pending = some 7
      ∧ 7 ≤ ((7 : Word).extractLsb' 0 4).toNat ∧ ((0x40 : Word).extractLsb' 6 2 ≠ 0)
      ∧ ((0x1000 : Word).extractLsb' 12 20 ≠ 0)
      ∧ ((0x14 : Word).extractLsb' 4 2 ≠ 0 ∧ ((0x14 : Word).extractLsb' 0 4).toNat ≠ 3)
      ∧ ((0x104 : Word).extractLsb' 8 4 ≠ 0 ∧ ((0x104 : Word).extractLsb' 0 4).toNat ≠ 5
        ∧ ((0x104 : Word).extractLsb' 0 4).toNat ≠ 6)
      ∧ (decodeCmd 0x33).isOk ∧ (decodeCmd 0xF05).isOk ∧ (decodeCmd 0xF06).isOk ∧ (decodeCmd 0x6).isOk :=
  ⟨.inl rfl, by decide⟩

theorem witness_DecodeOfEncodeIsTheInstruction :
    (Instr.responseCrc32 lightFrame).wf = true ∧ (Instr.requestCrc8 ⟨0, 0, 0, 0xFF, [1], 0xFF⟩).wf = true
      ∧ (Instr.decodeDispatch 15).wf = true ∧ (Instr.deviceReg 0xEF).wf = true := by decide

theorem witness_DecodedCodeIsTheEncoding :
    decode (.frame light) = .ok (.responseCrc32 lightFrame) ∧ decode (.cmd 0x33) = .ok (.encode 3) :=
  ⟨ok_of_okIs (by decide +kernel), ok_of_okIs (by decide)⟩

theorem witness_BuiltFrameLayout :
    ([] : List Byte).length ≤ 254 ∧ (List.replicate 254 (0 : Byte)).length ≤ 254 := by
  decide +kernel

/-- A buffer for each clause, at its boundary. -/
theorem witness_DecoderStagesInOrder :
    ([0xF0] : List Byte).length < 2
      ∧ (∀ k : SyncWord, leValue (slice [0xF0, 0x0E] 0 2) ≠ k.value.setWidth 32)
      ∧ leValue (slice light 0 2) = SyncWord.responseCrc32.value.setWidth 32
      ∧ (light.take 13).length < 6 + 2 * SyncWord.responseCrc32.width
      ∧ 6 + 2 * SyncWord.responseCrc8.width ≤ ([0xFD, 0xDF, 0x01, 0x00, 0x00, 0xFF, 0x00, 0x00] : List Byte).length
      ∧ slice [0xFD, 0xDF, 0x01, 0x00, 0x00, 0xFF, 0x00, 0x00] 2 4 = [0x01, 0x00, 0x00, (0xFF : Byte)]
      ∧ slice light 2 4 = [0x3D, 0x02, 0xF0, 0x0E] ∧ (light.take 27).length < 6 + 4 + 14 + 4
      ∧ 6 + 4 + 14 + 4 ≤ (light.take 28).length := by
  refine ⟨by decide, fun k => by cases k <;> decide, by decide⟩

theorem witness_NopCompletes :
    (0x10 : Word).extractLsb' 0 4 = 0 ∧ (0x10 : Word) ≠ 0 ∧ (State.reset.issue 0x10).codecTurn
      ∧ (State.reset.issue 0x10).pending = some 0x10 := ⟨by decide, by decide, .inl rfl, rfl⟩

/-- The last range inside RXB, the first outside, and a range with a byte never written. -/
theorem witness_ChecksumCommandsComplete :
    512 + 0 ≤ 512 ∧ readBytes State.reset .rxb 512 0 = .ok [] ∧ 512 < 511 + 2
      ∧ readBytes (rx light) .rxb 0 29 = .ok light ∧ readBytes State.reset .rxb 511 1 = .error (.unwrittenRead .rxb 511) :=
  ⟨by decide, rfl, by decide, ok_of_okIs (by decide +kernel), rfl⟩

theorem witness_EncodePreconditionsFail :
    2 ≤ (2 : BitVec 2).toNat ∧ ({ State.reset with plLen := 255 } : State).plLen.toNat = 255 := by decide

/-- An empty payload, a written one, and one with a byte never written. -/
theorem witness_EncodeBuildsFrameInTxb :
    (1 : BitVec 2).toNat < 2 ∧ (pl lightPayload).plLen.toNat ≠ 255
      ∧ readBytes (pl lightPayload) .plb 0 (pl lightPayload).plLen.toNat = .ok lightPayload
      ∧ readBytes State.reset .plb 0 State.reset.plLen.toNat = .ok []
      ∧ readBytes { State.reset with plLen := 254 } .plb 0 254 = .error (.unwrittenRead .plb 0) :=
  ⟨by decide, by decide, ok_of_okIs (by decide +kernel), rfl, rfl⟩

theorem witness_DecodeCommitsFrame :
    L4.rxPresents light ∧ U4.rxPresents light ∧ decodeFrame light = .ok (.responseCrc32, lightFrame) :=
  ⟨light_held, light_held_without_surplus.1, light_decodes⟩

/-- A buffer for each error, each with no byte written but those R153 lists. -/
theorem witness_DecodeErrorCommits :
    512 < ({ State.reset with rxLen := 513 } : State).rxLen.toNat
      ∧ ({ State.reset with rxLen := 1 } : State).rxPresents [0xF0] ∧ decodeFrame [0xF0] = .error (.truncated none 2)
      ∧ ({ rx [0xF0, 0x0F] with rxLen := 13 } : State).rxPresents (light.take 13)
      ∧ decodeFrame (light.take 13) = .error (.truncated (some .responseCrc32) 14)
      ∧ ({ rx (light.take 6) with rxLen := 27 } : State).rxPresents (light.take 27)
      ∧ decodeFrame (light.take 27) = .error (.truncated (some .responseCrc32) 28)
      ∧ ({ rx [0xF0, 0x0E] with rxLen := 9 } : State).rxPresents [0xF0, 0x0E, 0, 0, 0, 0, 0, 0, 0]
      ∧ decodeFrame [0xF0, 0x0E, 0, 0, 0, 0, 0, 0, 0] = .error (.unknownSync 0x0EF0)
      ∧ ({ rx [0xFD, 0xDF, 0, 0, 0, 0xFF] with rxLen := 8 } : State).rxPresents [0xFD, 0xDF, 0, 0, 0, 0xFF, 0, 0]
      ∧ decodeFrame [0xFD, 0xDF, 0, 0, 0, 0xFF, 0, 0] = .error (.extendedLength .responseCrc8) :=
  ⟨by decide, ⟨by decide, rfl, by decide⟩, rfl,
    ⟨by decide, by decide, by decide +kernel⟩, error_of_errIs (by decide +kernel),
    ⟨by decide, by decide, by decide +kernel⟩, error_of_errIs (by decide +kernel),
    ⟨by decide, by decide, by decide +kernel⟩, error_of_errIs (by decide +kernel),
    ⟨by decide, by decide, by decide +kernel⟩, error_of_errIs (by decide +kernel)⟩

/-- V-DEC-19: RXB[3] unwritten, whatever it may hold; nothing unwritten but the surplus byte; and RX_LEN 513. -/
theorem witness_DecodeFaultsOnlyOnReadBytes :
    (({ rx (light.take 3) with rxLen := 29 } : State).rxMayHold light
        ∧ ({ rx (light.take 3) with rxLen := 29 } : State).firstUnwritten light = some 3)
      ∧ (U4.rxMayHold light ∧ U4.firstUnwritten light = none)
      ∧ 512 < ({ State.reset with rxLen := 513 } : State).rxLen.toNat := by
  have h : ∀ (s : State), s.rxLen.toNat = 29 →
      (∀ i : Fin 29, ∀ v, s.byte .rxb i = some v → light[i]? = some v) → s.rxMayHold light := fun s h1 h2 =>
    ⟨by rw [h1]; decide, by rw [h1]; decide, fun i v hi => h2 ⟨i, hi⟩ v⟩
  have g : ∀ (o p : Option Byte), (o = none ∨ o = p) → ∀ v, o = some v → p = some v := by
    rintro o p (rfl | rfl) v hv
    · cases hv
    · exact hv
  refine ⟨⟨h _ (by decide) fun i => g _ _ ?_, by decide +kernel⟩, ⟨h _ (by decide) fun i => g _ _ ?_, by decide +kernel⟩,
    by decide⟩
  · revert i
    decide +kernel
  · revert i
    decide +kernel

theorem witness_DecodeIsIdempotent : ∃ t, exec .decode L4 = .next t ∧ t.dvalid = true :=
  next_of_nextIs (by decide +kernel)

/-- Two states with one RXB that differ elsewhere. -/
theorem witness_DecodeDependsOnlyOnRxb :
    L4.rxLen = ({ L4 with plLen := 9, dHdr := 5 } : State).rxLen
      ∧ (∀ i, i < L4.rxLen.toNat → L4.byte .rxb i = ({ L4 with plLen := 9, dHdr := 5 } : State).byte .rxb i)
      ∧ (∃ t, exec .decode L4 = .next t ∧ t.err = .ok)
      ∧ exec .decode { State.reset with rxLen := 2 } = .fault (.unwrittenRead .rxb 0) :=
  ⟨rfl, fun _ _ => rfl, (next_of_nextIs (p := fun t => t.err == .ok) (by decide +kernel)).imp
    fun _ h => ⟨h.1, eq_of_beq h.2⟩, fault_of_faultIs (by decide +kernel)⟩

/-- The light vector is a built frame with one surplus byte (V-RT-1). -/
theorem witness_BuiltFrameDecodesBack :
    lightPayload.length ≤ 254 ∧ L4.rxPresents (buildFrame .responseCrc32 0x3D 0x02 0xF0 lightPayload ++ [0xFF]) := by
  have h : buildFrame .responseCrc32 0x3D 0x02 0xF0 lightPayload ++ [0xFF] = light := by decide +kernel
  rw [h]
  exact ⟨by decide, light_held⟩

theorem witness_ChecksumEngineIsShared :
    L4.rxPresents light ∧ decodeFrame light = .ok (.responseCrc32, lightFrame) ∧ ∃ t, exec .decode L4 = .next t :=
  ⟨light_held, light_decodes, (next_of_nextIs (p := fun _ => true) (by decide +kernel)).imp fun _ h => h.1⟩

theorem witness_HeaderCorruptionIsFlagged :
    SyncWord.responseCrc32.width = 4 ∧ lightFrame.wf .responseCrc32 = true
      ∧ 6 + SyncWord.responseCrc32.width + lightFrame.payload.length + SyncWord.responseCrc32.width ≤ L4.rxLen.toNat
      ∧ L4.rxLen.toNat ≤ 512
      ∧ lightFrame.hcrc = crcW .responseCrc32
          (headerBytes .responseCrc32 lightFrame.id lightFrame.flags lightFrame.csr lightFrame.payload.length)
      ∧ (0x3C : Byte) ≠ lightFrame.id := by decide +kernel

/-- A buffer of exactly the frame's length. -/
theorem witness_FrameRowsCommit :
    lightFrame.payload.length ≤ 254
      ∧ 6 + SyncWord.responseCrc32.width + lightFrame.payload.length + SyncWord.responseCrc32.width
          ≤ ({ State.reset with rxLen := 28 } : State).rxLen.toNat
      ∧ ({ State.reset with rxLen := 512 } : State).rxLen.toNat ≤ 512 := by decide +kernel

/-- RX_LEN at the boundary of each clause, for w = 4 and the light frame's 28 bytes. -/
theorem witness_FrameRowsReject :
    512 < 513 ∧ 1 < 2 ∧ (2 ≤ 13 ∧ 13 < 6 + 2 * SyncWord.responseCrc32.width)
      ∧ (6 + 2 * SyncWord.responseCrc32.width ≤ 14 ∧ 14 ≤ 512 ∧ 255 ≤ (List.replicate 255 (0 : Byte)).length)
      ∧ (6 + 2 * SyncWord.responseCrc32.width ≤ 27 ∧ 27 < 6 + 4 + lightFrame.payload.length + 4
        ∧ lightFrame.payload.length ≤ 254) := by decide +kernel

theorem witness_DemuxWordFields_broadcast : (0xFF : Byte).toNat = 0xFF ∧ (0xFE : Byte).toNat ≠ 0xFF := by decide

theorem witness_CsrRowsCommitTheirClass :
    (0xEF : Byte).toNat ≤ 0xEF ∧ (0xFF : Byte).toNat ∈ [0xF1, 0xF2, 0xF3, 0xF4, 0xF6, 0xF8, 0xF9, 0xFA, 0xFF]
      ∧ L4.rxPresents light ∧ decodeFrame light = .ok (.responseCrc32, lightFrame) ∧ lightFrame.csr = 0xF0 :=
  ⟨by decide, by decide, light_held, light_decodes, rfl⟩

theorem witness_CsrRowsFailAsDecode :
    512 < ({ State.reset with rxLen := 513 } : State).rxLen.toNat ∧ State.reset.rxPresents []
      ∧ decodeFrame [] = .error (.truncated none 2)
      ∧ exec .decode { State.reset with rxLen := 2 } = .fault (.unwrittenRead .rxb 0) :=
  ⟨by decide, ⟨by decide, rfl, by decide⟩, rfl, fault_of_faultIs (by decide +kernel)⟩

/-- A written payload of each schema's width, one of another width, and one never written. -/
theorem witness_SchemaRowsRecord :
    (pl motorPayload).plLen.toNat = widthTable .motor
      ∧ readBytes (pl motorPayload) .plb 0 (widthTable .motor) = .ok motorPayload
      ∧ (pl lightPayload).plLen.toNat = widthTable .light
      ∧ readBytes (pl lightPayload) .plb 0 (widthTable .light) = .ok lightPayload
      ∧ (pl bamPayload).plLen.toNat = widthTable .bam
      ∧ readBytes (pl bamPayload) .plb 0 (widthTable .bam) = .ok bamPayload
      ∧ (pl (motorPayload.take 16)).plLen.toNat ≠ widthTable .motor ∧ (pl motorPayload).plLen.toNat ≠ widthTable .light
      ∧ State.reset.plLen.toNat ≠ widthTable .bam
      ∧ readBytes { State.reset with plLen := 17 } .plb 0 (widthTable .motor) = .error (.unwrittenRead .plb 0) :=
  ⟨by decide +kernel, ok_of_okIs (by decide +kernel), by decide +kernel, ok_of_okIs (by decide +kernel), by decide +kernel,
    ok_of_okIs (by decide +kernel), by decide +kernel, by decide +kernel, by decide, rfl⟩

/-- The selectors 2 and 3, and PL_LEN one off the width. -/
theorem witness_DecodePayloadOutcomes :
    2 < (3 : BitVec 4).toNat ∧ (2 : BitVec 4).toNat = selectorTable .bam
      ∧ (pl (motorPayload.take 16)).plLen.toNat ≠ widthTable .motor
      ∧ (pl motorPayload).plLen.toNat = widthTable .motor
      ∧ readBytes (pl motorPayload) .plb 0 (widthTable .motor) = .ok motorPayload
      ∧ readBytes { pl (motorPayload.take 16) with plLen := 17 } .plb 0 (widthTable .motor)
          = .error (.unwrittenRead .plb 16) :=
  ⟨by decide, by decide, by decide +kernel, by decide +kernel, ok_of_okIs (by decide +kernel),
    error_of_errIs (by decide +kernel)⟩

theorem witness_RecordDependsOnlyOnPayload :
    (0 : BitVec 4).toNat = selectorTable .motor
      ∧ (pl motorPayload).plLen = ({ pl motorPayload with dHdr := 5, rxLen := 3 } : State).plLen
      ∧ (pl motorPayload).plval = ({ pl motorPayload with dHdr := 5, rxLen := 3 } : State).plval
      ∧ (∀ i, i < widthTable .motor →
          (pl motorPayload).byte .plb i = ({ pl motorPayload with dHdr := 5, rxLen := 3 } : State).byte .plb i)
      ∧ (∃ t, exec (.decodePayload 0) (pl motorPayload) = .next t ∧ t.rvalid = true)
      ∧ exec (.decodePayload 0) { State.reset with plLen := 17 } = .fault (.unwrittenRead .plb 0) :=
  ⟨by decide, rfl, rfl, fun _ _ => rfl, next_of_nextIs (by decide +kernel), fault_of_faultIs (by decide +kernel)⟩

/-- Each of the outcomes of DECODE that the clauses name: the fault, an error, a flag 0, both flags 1. -/
theorem witness_DispatchRefinesDecodeThenPayload :
    2 < (3 : BitVec 4).toNat ∧ (2 : BitVec 4).toNat ≤ 2
      ∧ exec .decode { State.reset with rxLen := 2 } = .fault (.unwrittenRead .rxb 0)
      ∧ (∃ t, exec .decode State.reset = .next t ∧ (t.err == .truncatedFrame) = true)
      ∧ (∃ t, exec .decode (rx (light.set 27 0x57)) = .next t ∧ (t.err == .ok && !(t.hvalid && t.tvalid)) = true)
      ∧ ∃ t, exec .decode L4 = .next t ∧ (t.err == .ok && t.hvalid && t.tvalid) = true :=
  ⟨by decide, by decide, fault_of_faultIs (by decide +kernel), next_of_nextIs (by decide +kernel),
    next_of_nextIs (by decide +kernel), next_of_nextIs (by decide +kernel)⟩

theorem witness_DispatchCompletes :
    (1 : BitVec 4).toNat = selectorTable .light ∧ L4.rxPresents light
      ∧ decodeFrame light = .ok (.responseCrc32, lightFrame)
      ∧ lightFrame.hcrc = crcW .responseCrc32
          (headerBytes .responseCrc32 lightFrame.id lightFrame.flags lightFrame.csr lightFrame.payload.length)
      ∧ lightFrame.tcrc = crcW .responseCrc32 lightFrame.payload
      ∧ lightFrame.payload.length = widthTable .light :=
  ⟨by decide, light_held, light_decodes, by decide +kernel, by decide +kernel, by decide +kernel⟩

theorem witness_DispatchNeverDecodesUnvalidated :
    ∃ t, exec (.decodeDispatch 1) L4 = .next t ∧ (t.rvalid && t.err != .badSchema) = true :=
  next_of_nextIs (by decide +kernel)

theorem witness_EveryCommandEnds : ∃ t, exec .decode L4 = .next t ∧ L4.busy = true :=
  (next_of_nextIs (p := fun _ => true) (by decide +kernel)).imp fun _ h => ⟨h.1, rfl⟩

theorem witness_BootOperandsSuffice :
    (∃ bytes, readBytes L4 .rxb L4.crcOff.toNat L4.crcLen.toNat = .ok bytes)
      ∧ (∃ bytes, readBytes (pl lightPayload) .plb 0 (pl lightPayload).plLen.toNat = .ok bytes)
      ∧ ∃ bytes, readBytes L4 .rxb 0 L4.rxLen.toNat = .ok bytes :=
  ⟨⟨[], rfl⟩, ⟨lightPayload, ok_of_okIs (by decide +kernel)⟩, ⟨light, ok_of_okIs (by decide +kernel)⟩⟩

theorem witness_CommandsWriteOnlyTheirResults :
    ∃ t, exec .decode L4 = .next t ∧ (t.dvalid && !writesRecord .decode && !decodesFrame .crc8) = true :=
  next_of_nextIs (by decide +kernel)

/-- The last byte of PLB, the last register, and the accesses beside them. -/
theorem witness_IllegalAccessesAreBusErrors :
    legalAccess 0x8FF 1 ∧ ¬ legalAccess 0x900 1 ∧ legalAccess 0x17C 4 ∧ ¬ legalAccess 0x180 4 ∧ legalAccess 0x044 4
      ∧ ¬ legalAccess 0x048 4 ∧ ¬ legalAccess 0x006 4 ∧ ¬ legalAccess 0x000 1 ∧ ¬ legalAccess 0x400 4
      ∧ ¬ legalAccess 0x3FF 1
      ∧ ({ State.reset with inputs := [.read (Config.codecBase + (0x900 : BitVec 12).toNat) 1] } : State).inputs
          = .read (Config.codecBase + (0x900 : BitVec 12).toNat) 1 :: [] := by
  refine ⟨?_, ?_, ?_, ?_, ?_, ?_, ?_, ?_, ?_, ?_, rfl⟩ <;> (unfold legalAccess; decide)

theorem L4_handshake : L4.handshake := ⟨rfl, fun _ h => ⟨(Option.some.inj h).symm, rfl⟩⟩

/-- The accesses while a command is pending: a write, reads of a defined register, of STATUS, of a register that is drawn,
of a written and an unwritten RXB byte, of a written PLB byte and of a TXB byte. -/
theorem witness_BusyAccesses :
    L4.handshake ∧ L4.busy = true ∧ legalAccess 0x008 4
      ∧ ({ L4 with inputs := [wr .rxLen 5] } : State).inputs = .write (Config.codecBase + 0x008) 4 5 :: []
      ∧ ({ L4 with inputs := [rd .cmd] } : State).inputs = .read (Config.codecBase + Reg.cmd.offset) 4 :: []
      ∧ ({ L4 with inputs := [rd .status] } : State).inputs = .read (Config.codecBase + Reg.status.offset) 4 :: []
      ∧ ({ L4 with inputs := [rd .txLen] } : State).inputs = .read (Config.codecBase + Reg.txLen.offset) 4 :: []
      ∧ Reg.txLen ∉ [Reg.cmd, .status, .rxLen, .encHdr, .crcOff, .crcLen]
      ∧ ({ L4 with inputs := [rdb .rxb 28] } : State).inputs = .read (Config.codecBase + (Buffer.rxb.base + 28)) 1 :: []
      ∧ 28 < Buffer.rxb.size ∧ L4.byte .rxb 28 = some 0xFF ∧ 511 < Buffer.rxb.size ∧ L4.byte .rxb 511 = none
      ∧ ({ L4 with inputs := [rdb .txb 511] } : State).inputs = .read (Config.codecBase + (Buffer.txb.base + 511)) 1 :: []
      ∧ 511 < Buffer.txb.size ∧ Buffer.txb ≠ .rxb
      ∧ 0 < Buffer.plb.size ∧ ((pl lightPayload).issue 0).byte .plb 0 = some 0x83 ∧ ((pl lightPayload).issue 0).busy = true :=
  ⟨L4_handshake, rfl, by unfold legalAccess; decide, rfl, rfl, rfl, rfl, by decide, rfl, by decide, by decide +kernel,
    by decide, by decide +kernel, rfl, by decide, by decide, by decide, by decide +kernel, rfl⟩

/-- A register, a written byte, and a byte never written of each buffer. -/
theorem witness_IdleReads :
    (rx light).busy = false
      ∧ ({ rx light with inputs := [rd (.record 31)] } : State).inputs
          = .read (Config.codecBase + (Reg.record 31).offset) 4 :: []
      ∧ 28 < Buffer.rxb.size ∧ (rx light).byte .rxb 28 = some 0xFF
      ∧ ({ rx light with inputs := [rdb .rxb 28] } : State).inputs
          = .read (Config.codecBase + (Buffer.rxb.base + 28)) 1 :: []
      ∧ (511 < Buffer.rxb.size ∧ (rx light).byte .rxb 511 = none)
      ∧ (511 < Buffer.txb.size ∧ (rx light).byte .txb 511 = none)
      ∧ 255 < Buffer.plb.size ∧ (rx light).byte .plb 255 = none :=
  ⟨rfl, rfl, by decide, by decide +kernel, rfl, ⟨by decide, by decide +kernel⟩, ⟨by decide, by decide +kernel⟩,
    by decide, by decide +kernel⟩

theorem witness_IdleRegisterWrites :
    (rx light).busy = false
      ∧ ({ rx light with inputs := [wr .cmd 4] } : State).inputs = .write (Config.codecBase + Reg.cmd.offset) 4 4 :: [] :=
  ⟨rfl, rfl⟩

/-- The last byte of each buffer. -/
theorem witness_IdleByteWrites :
    (rx light).busy = false ∧ 511 < Buffer.rxb.size ∧ 511 < Buffer.txb.size ∧ 255 < Buffer.plb.size
      ∧ ({ rx light with inputs := [wrb .plb 255 7] } : State).inputs
          = .write (Config.codecBase + (Buffer.plb.base + 255)) 1 ((7 : Byte).setWidth 32) :: [] :=
  ⟨rfl, by decide, by decide, by decide, rfl⟩

/-- `wr RX_LEN, 5` between the issue of DECODE and its step (P5, interleaving (b)). -/
theorem witness_LatencyDoesNotChangeResults :
    L4.busy = true ∧ ∃ u, step { L4 with inputs := wr .rxLen 5 :: .codec :: [] } = .next u ∧ u.overrun = true := by
  refine ⟨rfl, ?_⟩
  show ∃ u, busAccess (Config.codecBase + 8) _ _ = .next u ∧ _
  unfold busAccess
  rw [windowOffset_in_window 8 (by decide)]
  exact next_of_nextIs (p := fun u => u.overrun) (by decide +kernel)

theorem witness_PendingCommandsComplete :
    L4.handshake ∧ ∃ t, Host.Core.run Sys2Proof.core (L4.inputs.length + 1) L4 = .next t ∧ t.done = true := by
  refine ⟨L4_handshake, ?_⟩
  obtain ⟨t, h, hd⟩ := next_of_nextIs (r := step L4) (p := fun t => t.done) (by decide +kernel)
  refine ⟨t, ?_, hd⟩
  show (match step L4 with | .next s' => .next s' | .fault r => .fault r | .refused r => .refused r : Result) = _
  rw [h]
  rfl

/-- A state with a command pending that steps to a committed frame. -/
theorem witness_StepKeeps_pending :
    L4.mem.wf ∧ L4.handshake ∧ L4.reservedZero ∧ L4.frameFlagsSound ∧ L4.recordSound ∧ L4.payloadVouched
      ∧ L4.txFrameBuilt ∧ ∃ t, step L4 = .next t ∧ (t.dvalid && t.plval) = true :=
  ⟨by decide +kernel, L4_handshake, by unfold State.reservedZero; decide, ⟨nofun, fun _ => by decide⟩,
    ⟨fun _ => ⟨rfl, rfl⟩, nofun⟩, nofun, fun h => absurd rfl h, next_of_nextIs (by decide +kernel)⟩

/-- The state a meaning answers. -/
def after (r : Result) : State :=
  match r with
  | .next t => t
  | .fault _ => State.reset
  | .refused _ => State.reset

/-- The state after V-PAY-10's first row, with ENCODE of its payload issued: every flag and the record are set. -/
abbrev D3 : State := (after (exec (.decodeDispatch 1) (rx light))).issue 0x13

theorem witness_StepKeeps_committed :
    D3.mem.wf ∧ D3.handshake ∧ D3.reservedZero ∧ D3.frameFlagsSound ∧ D3.recordSound ∧ D3.payloadVouched
      ∧ D3.dvalid = true ∧ D3.rvalid = true ∧ D3.plval = true
      ∧ ∃ t, step D3 = .next t ∧ (t.dvalid && t.plval && t.txLen == 28) = true := by
  have hv : D3.dvalid = true ∧ D3.rvalid = true ∧ D3.plval = true := by decide +kernel
  refine ⟨by decide +kernel, ⟨rfl, fun _ h => ⟨(Option.some.inj h).symm, rfl⟩⟩,
    by unfold State.reservedZero; decide +kernel,
    ⟨fun _ => by decide +kernel, fun h => absurd (hv.1.symm.trans h) (by decide)⟩,
    ⟨fun h => absurd (hv.2.1.symm.trans h) (by decide), fun _ => ⟨.light, true, by decide +kernel, by decide +kernel⟩⟩,
    fun _ => ⟨by decide +kernel, by decide +kernel, by decide +kernel, by decide +kernel, .responseCrc32, lightPayload,
      by decide +kernel, ok_of_okIs (by decide +kernel), by decide +kernel⟩,
    hv.1, hv.2.1, hv.2.2, next_of_nextIs (by decide +kernel)⟩

/-- The state after V-ENC-1, with NOP issued: TXB holds a frame. -/
theorem witness_StepKeepsTxFrameBuilt :
    ((after (exec (.encode 1) (pl lightPayload))).issue 0).txFrameBuilt
      ∧ ((after (exec (.encode 1) (pl lightPayload))).issue 0).txLen ≠ 0
      ∧ ∃ t, step ((after (exec (.encode 1) (pl lightPayload))).issue 0) = .next t ∧ (t.txLen == 28) = true :=
  ⟨fun _ => ⟨.requestCrc32, 0, 0, 0, lightPayload, rfl, by decide, ok_of_okIs (by decide +kernel)⟩, by decide +kernel,
    next_of_nextIs (by decide +kernel)⟩

end Sys2Proof.Tests
end

section
/-! PROOFS. The encoding family: which command words the decoder rejects and how such a word ends (R104), and the layout of
a built frame (R80, R91). -/

open Sys2Proof Sys2Proof.Machine

namespace Sys2Proof.Proofs

/-! ## Illegal command words -/

/-- The words that R104 refuses: a reserved opcode, a reserved bit, or a field the opcode does not use. -/
def IllegalWord (w : Word) : Prop :=
  7 ≤ (w.extractLsb' 0 4).toNat ∨ w.extractLsb' 6 2 ≠ 0 ∨ w.extractLsb' 12 20 ≠ 0
    ∨ (w.extractLsb' 4 2 ≠ 0 ∧ (w.extractLsb' 0 4).toNat ≠ 3)
    ∨ (w.extractLsb' 8 4 ≠ 0 ∧ (w.extractLsb' 0 4).toNat ≠ 5 ∧ (w.extractLsb' 0 4).toNat ≠ 6)

/-- R104 compares opcodes as numbers, the decoder as bit patterns: `BitVec.toNat_ne` goes from one to the other. -/
theorem decodeCmd_of_illegalWord {w : Word} (h : IllegalWord w) : decodeCmd w = .error (.badCommand w) := by
  unfold decodeCmd
  rcases h with hop | hres | hres | ⟨hsync, hop⟩ | ⟨hschema, hop5, hop6⟩
  · have no_command : ∀ c : BitVec 4, c.toNat < 7 → w.extractLsb' 0 4 ≠ c :=
      fun c hc => BitVec.toNat_ne.mpr (by omega)
    simp [no_command]
  · exact if_pos (.inl hres)
  · exact if_pos (.inr hres)
  · dsimp only
    split
    · rfl
    · exact if_pos ⟨hsync, BitVec.toNat_ne.mpr hop⟩
  · dsimp only
    split
    · rfl
    · split
      · rfl
      · exact if_pos ⟨hschema, BitVec.toNat_ne.mpr hop5, BitVec.toNat_ne.mpr hop6⟩

/-- The opcodes of R100. -/
theorem opcode_cases {op : BitVec 4} (h : op.toNat < 7) :
    op = 0 ∨ op = 1 ∨ op = 2 ∨ op = 3 ∨ op = 4 ∨ op = 5 ∨ op = 6 := by
  revert op
  decide

theorem decodeCmd_of_not_illegalWord {w : Word} (h : ¬ IllegalWord w) : ∃ i, decodeCmd w = .ok i := by
  simp only [IllegalWord, not_or, not_and, Classical.not_not, Nat.not_le] at h
  obtain ⟨hop, hres6, hres12, hsync, hschema⟩ := h
  have reserved_zero : ¬ (w.extractLsb' 6 2 ≠ 0 ∨ w.extractLsb' 12 20 ≠ 0) := by simp [hres6, hres12]
  have syncsel_used : ¬ (w.extractLsb' 4 2 ≠ 0 ∧ w.extractLsb' 0 4 ≠ 3) := fun ⟨hs, h3⟩ =>
    h3 (BitVec.eq_of_toNat_eq (hsync hs))
  have schema_used : ¬ (w.extractLsb' 8 4 ≠ 0 ∧ w.extractLsb' 0 4 ≠ 5 ∧ w.extractLsb' 0 4 ≠ 6) := fun ⟨hs, h5, h6⟩ =>
    h6 (BitVec.eq_of_toNat_eq (hschema hs fun h => h5 (BitVec.eq_of_toNat_eq h)))
  unfold decodeCmd
  dsimp only
  rw [if_neg reserved_zero, if_neg syncsel_used, if_neg schema_used]
  rcases opcode_cases hop with hop | hop | hop | hop | hop | hop | hop <;> rw [hop] <;> exact ⟨_, rfl⟩

/-- The CODEC's turn with a pending word that is no command raises BadCommand (R191, R194). -/
theorem step_of_decodeCmd_error {s : State} {w : Word} {r : Reject} (ht : s.codecTurn) (hp : s.pending = some w)
    (hd : decodeCmd w = .error r) : step s = .next (s.advance.finish .badCommand) :=
  (step_codecTurn ht).trans (codecStep_bad (s := s.advance) hp hd)

/-- Settles O6: the decoder rejects exactly the words of R104, and the step of a rejected word raises BadCommand. -/
theorem illegalCommandWordsFail : Obligations.IllegalCommandWordsFail := by
  intro w
  refine ⟨fun hbad => ?_, fun hlegal => decodeCmd_of_not_illegalWord hlegal⟩
  have hd : decodeCmd w = .error (.badCommand w) := decodeCmd_of_illegalWord hbad
  exact ⟨hd, fun s ht hp => step_of_decodeCmd_error ht hp hd⟩

/-! ## Little-endian fields -/

theorem lowByte_or_rest (v : Word) : (v.setWidth 8).setWidth 32 ||| ((v >>> 8) <<< 8) = v := by
  ext i hi
  by_cases hlow : i < 8
  · simp [hi, hlow]
  · simp [hi, hlow, Nat.add_sub_cancel' (Nat.le_of_not_lt hlow)]

/-- Reading back the n bytes that a value was stored in, when it fits in them (R10). -/
theorem leValue_leBytes {n : Nat} {v : Word} (h : v.toNat < 2 ^ (8 * n)) : leValue (leBytes n v) = v := by
  induction n generalizing v with
  | zero =>
    have hv : v.toNat = 0 := by simpa using h
    exact (BitVec.eq_of_toNat_eq hv).symm
  | succ n ih =>
    have hshift : (v >>> 8).toNat < 2 ^ (8 * n) := by
      rw [BitVec.toNat_ushiftRight, Nat.shiftRight_eq_div_pow]
      refine Nat.div_lt_of_lt_mul ?_
      rwa [← Nat.pow_add, Nat.add_comm]
    rw [leBytes, leValue, ih hshift, lowByte_or_rest]

/-- A part of a byte list, at the offset where it stands. -/
theorem slice_append_middle {xs ys zs : List Byte} {a n : Nat} (ha : xs.length = a) (hn : ys.length = n) :
    slice (xs ++ ys ++ zs) a n = ys := by
  subst ha hn
  simp [slice]

/-! ## The fields of an encoded frame (R80) -/

theorem headerBytes_length (k : SyncWord) (id flags csr : Byte) (L : Nat) :
    (headerBytes k id flags csr L).length = 6 := rfl

section EncodeFrame
variable (k : SyncWord) (f : Frame)

theorem slice_encodeFrame_header :
    slice (encodeFrame k f) 0 6 = headerBytes k f.id f.flags f.csr f.payload.length := rfl

theorem leValue_slice_encodeFrame_sync : leValue (slice (encodeFrame k f) 0 2) = k.value.setWidth 32 := by
  show leValue [k.value.extractLsb' 0 8, k.value.extractLsb' 8 8] = k.value.setWidth 32
  cases k <;> decide

theorem slice_encodeFrame_hcrc : slice (encodeFrame k f) 6 k.width = leBytes k.width f.hcrc := by
  rw [encodeFrame, List.append_assoc _ f.payload]
  exact slice_append_middle (headerBytes_length ..) (Laws.leBytes_length ..)

theorem slice_encodeFrame_payload : slice (encodeFrame k f) (6 + k.width) f.payload.length = f.payload :=
  slice_append_middle (by rw [List.length_append, headerBytes_length, Laws.leBytes_length]) rfl

theorem slice_encodeFrame_tcrc :
    slice (encodeFrame k f) (6 + k.width + f.payload.length) k.width = leBytes k.width f.tcrc := by
  rw [encodeFrame, ← List.append_nil (_ ++ leBytes k.width f.tcrc)]
  refine slice_append_middle ?_ (Laws.leBytes_length ..)
  rw [List.length_append, List.length_append, headerBytes_length, Laws.leBytes_length]

end EncodeFrame

/-! ## Built frames -/

/-- A checksum fits in the w bytes that hold it (R83). -/
theorem crcW_toNat_lt (k : SyncWord) (bytes : List Byte) : (crcW k bytes).toNat < 2 ^ (8 * k.width) := by
  have narrow : ∀ b : Byte, (b.setWidth 32).toNat < 2 ^ 8 := fun b => by
    rw [BitVec.toNat_setWidth_of_le (by decide)]
    exact b.isLt
  cases k with
  | requestCrc8 => exact narrow _
  | responseCrc8 => exact narrow _
  | requestCrc32 => exact (crc32Fn bytes).isLt
  | responseCrc32 => exact (crc32Fn bytes).isLt

theorem leValue_leBytes_crcW (k : SyncWord) (bytes : List Byte) :
    leValue (leBytes k.width (crcW k bytes)) = crcW k bytes :=
  leValue_leBytes (crcW_toNat_lt k bytes)

/-- Settles O10: each field of a built frame is that field of the encoded frame whose checksums are CRCw's. -/
theorem builtFrameLayout : Obligations.BuiltFrameLayout := by
  intro k id flags csr payload hL F w L
  have hlen : (BitVec.ofNat 8 payload.length).toNat = payload.length := Nat.mod_eq_of_lt (by omega)
  let f : Frame := frameWith Config.crc8Fn k id flags csr payload
  have hpayload : slice F (6 + w) L = payload := slice_encodeFrame_payload k f
  refine ⟨Laws.encodeFrame_length k f, leValue_slice_encodeFrame_sync k f, rfl, rfl, rfl,
    ⟨_, rfl, hlen⟩, ?_, hpayload, ?_⟩
  · calc leValue (slice F 6 w)
        = leValue (leBytes w f.hcrc) := congrArg leValue (slice_encodeFrame_hcrc k f)
      _ = crcW k (headerBytes k id flags csr L) := leValue_leBytes_crcW k _
      _ = crcW k (slice F 0 6) := congrArg (crcW k) (slice_encodeFrame_header k f).symm
  · calc leValue (slice F (6 + w + L) w)
        = leValue (leBytes w f.tcrc) := congrArg leValue (slice_encodeFrame_tcrc k f)
      _ = crcW k payload := leValue_leBytes_crcW k payload
      _ = crcW k (slice F (6 + w) L) := by rw [hpayload]

end Sys2Proof.Proofs
end

section
/-! PROOFS. The checksum family: the three ways a checksum command ends (R124, R125), and the values that the rules give as
examples. -/

open Sys2Proof Sys2Proof.Machine

namespace Sys2Proof.Proofs

/-! ## The shared body of CRC8 and CRC32 -/

section CrcCommand
variable {fn : List Byte → Word} {s : State}

/-- A range that does not fit in RXB is Range, and no byte is read. -/
theorem crcCommand_of_outside (h : Config.rxbSize < s.crcOff.toNat + s.crcLen.toNat) :
    crcCommand fn s = .next (({ s with crcResult := 0 } : State).finish .range) :=
  if_pos h

/-- A range inside RXB is decided by the read of its bytes. -/
theorem crcCommand_of_inside (h : s.crcOff.toNat + s.crcLen.toNat ≤ Config.rxbSize) :
    crcCommand fn s = withRead (readBytes s .rxb s.crcOff.toNat s.crcLen.toNat) fun bytes =>
      complete { s with crcResult := fn bytes } :=
  if_neg (Nat.not_lt.mpr h)

theorem crcCommand_of_read {bytes : List Byte} (h : s.crcOff.toNat + s.crcLen.toNat ≤ Config.rxbSize)
    (hread : readBytes s .rxb s.crcOff.toNat s.crcLen.toNat = .ok bytes) :
    crcCommand fn s = .next (({ s with crcResult := fn bytes } : State).finish .ok) := by
  rw [crcCommand_of_inside h, hread, withRead_ok, complete]

theorem crcCommand_of_unwritten {f : Fault} (h : s.crcOff.toNat + s.crcLen.toNat ≤ Config.rxbSize)
    (hread : readBytes s .rxb s.crcOff.toNat s.crcLen.toNat = .error f) : crcCommand fn s = .fault f := by
  rw [crcCommand_of_inside h, hread, withRead_error]

end CrcCommand

/-! ## The two commands -/

theorem exec_crc8 (s : State) : exec .crc8 s = crcCommand (fun bytes => (Config.crc8Fn bytes).setWidth 32) s := rfl

theorem exec_crc32 (s : State) : exec .crc32 s = crcCommand crc32Fn s := rfl

/-- What holds of the shared body for every checksum function holds of both commands. -/
theorem exec_checksum_eq {i : Instr} (hi : i = .crc8 ∨ i = .crc32) {s : State} {r : Result}
    (h : ∀ fn, crcCommand fn s = r) : exec i s = r := by
  rcases hi with rfl | rfl
  · exact (exec_crc8 s).trans (h _)
  · exact (exec_crc32 s).trans (h _)

/-! ## The examples of R124 and R125 -/

/-- The check value of CRC-32, and the header of the light vector. -/
theorem crc32Fn_examples :
    crc32Fn [0x31, 0x32, 0x33, 0x34, 0x35, 0x36, 0x37, 0x38, 0x39] = 0xCBF43926
      ∧ crc32Fn [0xF0, 0x0F, 0x3D, 0x02, 0xF0, 0x0E] = 0xD4C117C3 := by decide +kernel

theorem crc8Smbus_check_value :
    crc8Smbus [0x31, 0x32, 0x33, 0x34, 0x35, 0x36, 0x37, 0x38, 0x39] = 0xF4 := by decide +kernel

/-- Settles O13: each command is the shared body at its checksum function, and that body ends in Range, with the checksum
or in the model fault by the range and by the read. -/
theorem checksumCommandsComplete : Obligations.ChecksumCommandsComplete := by
  refine ⟨rfl, rfl, fun s => ⟨fun houtside i hi => ?_, fun hinside bytes hread => ⟨?_, ?_⟩,
    fun hinside f hread i hi => ?_⟩, rfl, crc32Fn_examples.1, crc32Fn_examples.2, crc8Smbus_check_value⟩
  · exact exec_checksum_eq hi fun _ => crcCommand_of_outside houtside
  · exact (exec_crc8 s).trans (crcCommand_of_read hinside hread)
  · exact (exec_crc32 s).trans (crcCommand_of_read hinside hread)
  · exact exec_checksum_eq hi fun _ => crcCommand_of_unwritten hinside hread

end Sys2Proof.Proofs
end

section
/-! PROOFS. The encoder family: how ENCODE ends where one of its preconditions fails (R130, R131). -/

open Sys2Proof Sys2Proof.Machine

namespace Sys2Proof.Proofs

/-! ## The two preconditions of ENCODE -/

section EncodePreconditions
variable {sel : BitVec 2} {s : State}

/-- The first check: no response sync word is encoded. -/
theorem execEncode_of_responseSel (hsel : 2 ≤ sel.toNat) :
    execEncode sel s = .next (({ s with txLen := 0 } : State).finish .encodePrecondition) :=
  if_pos hsel

/-- The second check, for the selectors that pass the first: LEN 255 is no frame's. -/
theorem execEncode_of_plLen_255 (hsel : sel.toNat < 2) (hlen : s.plLen.toNat = 255) :
    execEncode sel s = .next (({ s with txLen := 0 } : State).finish .encodePrecondition) :=
  (if_neg (Nat.not_le.mpr hsel)).trans (if_pos (BitVec.eq_of_toNat_eq hlen))

end EncodePreconditions

theorem exec_encode (sel : BitVec 2) (s : State) : exec (.encode sel) s = execEncode sel s := rfl

/-- Settles O15: a response selector fails the first check whatever PL_LEN is; any other selector with PL_LEN 255 passes
it and fails the second, and both raise the same code from the same state. -/
theorem encodePreconditionsFail : Obligations.EncodePreconditionsFail := by
  intro sel s hfails
  rw [exec_encode]
  rcases Nat.lt_or_ge sel.toNat 2 with hrequest | hresponse
  · have hlen : s.plLen.toNat = 255 := hfails.resolve_left (Nat.not_le.mpr hrequest)
    exact execEncode_of_plLen_255 hrequest hlen
  · exact execEncode_of_responseSel hresponse

end Sys2Proof.Proofs
end

section
/-! PROOFS. The decoder family: DECODE of a buffer that presents a whole frame commits it (R148), and the commit writes
each field of R33 to R37 where the register map has it. -/

open Sys2Proof Sys2Proof.Machine

namespace Sys2Proof.Proofs

/-! ## Fields of a packed word

A register is the OR of its fields, each at its bit offset. A cut of it is the OR of the fields' cuts: 0 of a field that
starts above the cut or ends below it, and the whole of the field that stands there. -/

section PackedFields
variable {a m n w : Nat}

theorem extractLsb'_shiftLeft_below (v : Word) (h : a + m ≤ n) : (v <<< n).extractLsb' a m = 0#m := by
  ext i hi
  simp [show a + i < n by omega]

theorem extractLsb'_shiftLeft_above (v : Word) (hn : n ≤ a) (h : a + m ≤ 32) :
    (v <<< n).extractLsb' a m = v.extractLsb' (a - n) m := by
  ext i hi
  have in_word : a + i < 32 := by omega
  have in_field : ¬ a + i < n := by omega
  rw [BitVec.getElem_extractLsb', BitVec.getElem_extractLsb', BitVec.getLsbD_shiftLeft, Nat.sub_add_comm hn]
  simp only [in_word, in_field, decide_true, decide_false, Bool.not_false, Bool.true_and]

theorem extractLsb'_setWidth_above (b : BitVec w) (h : w ≤ a) : (b.setWidth 32).extractLsb' a m = 0#m := by
  ext i hi
  simp [BitVec.getLsbD_of_ge b (a + i) (by omega)]

theorem extractLsb'_setWidth_self (b : BitVec w) (h : w ≤ 32) : (b.setWidth 32).extractLsb' 0 w = b := by
  rw [BitVec.extractLsb'_setWidth_of_le (by omega), BitVec.extractLsb'_eq_self]

end PackedFields

/-! ## The words of a commit -/

/-- D_SYNC of each of the four sync words (R33, R81). -/
theorem dSyncWord_fields (k : SyncWord) :
    (dSyncWord k).extractLsb' 0 16 = k.value ∧ (dSyncWord k).getLsbD 16 = k.isResponse
      ∧ (dSyncWord k).getLsbD 17 = (k.width == 4) ∧ (dSyncWord k).extractLsb' 18 14 = 0 := by
  cases k <;> decide

/-- D_HDR (R34), for a length that its byte holds. -/
theorem dHdrWord_fields (id flags csr : Byte) {L : Nat} (hL : L < 2 ^ 8) :
    (dHdrWord id flags csr L).extractLsb' 0 8 = id ∧ (dHdrWord id flags csr L).extractLsb' 8 8 = flags
      ∧ (dHdrWord id flags csr L).extractLsb' 16 8 = csr
      ∧ ((dHdrWord id flags csr L).extractLsb' 24 8).toNat = L := by
  rw [dHdrWord, ← BitVec.setWidth_ofNat_of_le_of_lt (by decide) hL]
  simp (disch := omega) only [BitVec.extractLsb'_or, extractLsb'_shiftLeft_below, extractLsb'_shiftLeft_above,
    extractLsb'_setWidth_above, extractLsb'_setWidth_self, Nat.sub_self, BitVec.or_zero, BitVec.zero_or,
    BitVec.toNat_ofNat, Nat.mod_eq_of_lt, true_and]

/-- D_FLEN (R37), for lengths that its halves hold. -/
theorem dFlenWord_fields {flen surplus : Nat} (hf : flen < 2 ^ 16) (hs : surplus < 2 ^ 16) :
    ((dFlenWord flen surplus).extractLsb' 0 16).toNat = flen
      ∧ ((dFlenWord flen surplus).extractLsb' 16 16).toNat = surplus := by
  rw [dFlenWord, ← BitVec.setWidth_ofNat_of_le_of_lt (by decide) hf,
    ← BitVec.setWidth_ofNat_of_le_of_lt (by decide) hs]
  simp (disch := omega) only [BitVec.extractLsb'_or, extractLsb'_shiftLeft_below, extractLsb'_shiftLeft_above,
    extractLsb'_setWidth_above, extractLsb'_setWidth_self, Nat.sub_self, BitVec.or_zero, BitVec.zero_or,
    BitVec.toNat_ofNat, Nat.mod_eq_of_lt, true_and]

theorem frameLength_le {k : SyncWord} {L : Nat} (hL : L ≤ 254) : frameLength k L ≤ 268 := by
  have hw := (width_pos k).2
  unfold frameLength
  omega

/-! ## The commit -/

section Commit
variable (s : State) (k : SyncWord) (f : Frame) (e : ErrCode)

/-- The commit makes every write of R148, for any frame that the stages can accept, whatever its checksums and whatever
the completion after it. -/
theorem commitsFrame_commit_finish (hL : f.payload.length ≤ 254) : CommitsFrame s ((s.commit k f).finish e) k f where
  sync := dSyncWord_fields k
  header := dHdrWord_fields f.id f.flags f.csr (Nat.lt_of_le_of_lt hL (by decide))
  stored := ⟨rfl, rfl⟩
  recomputed := ⟨rfl, rfl⟩
  length := dFlenWord_fields (Nat.lt_of_le_of_lt (frameLength_le hL) (by decide))
    (Nat.lt_of_le_of_lt (Nat.sub_le ..) s.rxLen.isLt)
  route := rfl
  payload := ⟨readBytes_writeBytes s .plb 0 f.payload, Nat.mod_eq_of_lt (Nat.lt_of_le_of_lt hL (by decide))⟩
  flags := ⟨rfl, rfl, rfl, rfl⟩
  memory := Memory.get_setMany_outside f.payload s.mem Buffer.plb.base

theorem sameButDecode_commit_finish : s.sameButDecode ((s.commit k f).finish e) := rfl

theorem completed_finish : (s.finish e).completed e := ⟨rfl, rfl, rfl, rfl⟩

end Commit

/-! ## DECODE of a whole frame -/

section DecodeFrame
variable {s : State} {bytes : List Byte} {k : SyncWord} {f : Frame}

theorem fetchFrame_of_decodeFrame_ok (h : s.rxPresents bytes) (hd : decodeFrame bytes = .ok (k, f)) :
    fetchFrame s = .ok (.ok (k, f)) := by
  rw [fetchFrame_of_presents h, hd, fetched]

theorem withFrame_of_fetchFrame_ok {fails : DecodeError → Result} {found : SyncWord → Frame → Result}
    (h : fetchFrame s = .ok (.ok (k, f))) : withFrame s fails found = found k f := by
  rw [withFrame, h, withRead_ok]

theorem exec_decode (s : State) : exec .decode s = execDecode s := rfl

theorem exec_decode_of_fetchFrame_ok (h : fetchFrame s = .ok (.ok (k, f))) :
    exec .decode s = .next ((s.commit k f).finish .ok) := by
  rw [exec_decode, execDecode, withFrame_of_fetchFrame_ok h, complete]

end DecodeFrame

/-- Settles O17: the fetch finds the presented frame, DECODE commits it, and its payload is short enough for each
register field to hold what it is given. -/
theorem decodeCommitsFrame : Obligations.DecodeCommitsFrame := by
  refine ⟨rfl, fun s bytes k f hpresents hframe => ?_⟩
  have hfetch : fetchFrame s = .ok (.ok (k, f)) := fetchFrame_of_decodeFrame_ok hpresents hframe
  obtain ⟨-, hL, -⟩ := fetchFrame_bounds hfetch
  exact ⟨(s.commit k f).finish .ok, exec_decode_of_fetchFrame_ok hfetch, commitsFrame_commit_finish s k f .ok hL,
    sameButDecode_commit_finish s k f .ok, completed_finish (s.commit k f) .ok⟩

end Sys2Proof.Proofs
end

section
/-! PROOFS. The demultiplexer family: the D_ROUTE word holds each field of R160 at its offset and 0 elsewhere. -/

open Sys2Proof Sys2Proof.Machine

namespace Sys2Proof.Proofs

/-! ## One-bit fields of a packed word -/

section FlagBits
variable {a i m n : Nat}

theorem getLsbD_flagBit (b : Bool) (hn : n < 32) : (flagBit b n).getLsbD i = (decide (n = i) && b) := by
  cases b with
  | false => simp [flagBit]
  | true =>
    have one_bit : flagBit true n = BitVec.twoPow 32 n := rfl
    simp [one_bit, BitVec.getLsbD_twoPow, hn]

theorem extractLsb'_flagBit_outside (b : Bool) (hn : n < 32) (h : n < a ∨ a + m ≤ n) :
    (flagBit b n).extractLsb' a m = 0#m := by
  ext j hj
  have other_bit : n ≠ a + j := by omega
  simp [getLsbD_flagBit b hn, other_bit]

end FlagBits

/-- A bit of a word is set exactly when the bits up to and including it reach its weight. -/
theorem getLsbD_eq_two_pow_le_mod {w : Nat} (b : BitVec w) (n : Nat) :
    b.getLsbD n = decide (2 ^ n ≤ b.toNat % 2 ^ (n + 1)) := by
  have h := BitVec.msb_eq_decide (b.setWidth (n + 1))
  rwa [BitVec.msb_setWidth, BitVec.toNat_setWidth] at h

/-! ## The layout of D_ROUTE (R38) -/

/-- The register map's D_ROUTE, of any values of its six fields. -/
def routeWord (bcast mcast relay reboot : Bool) (node : BitVec 6) (cls : BitVec 4) : Word :=
  flagBit bcast 0 ||| flagBit mcast 1 ||| flagBit relay 2 ||| flagBit reboot 3
    ||| (node.setWidth 32 <<< 8) ||| (cls.setWidth 32 <<< 16)

theorem demux_eq_routeWord (id csr : Byte) (payload : List Byte) :
    demux id csr payload = routeWord (id == 0xFF) (id.getLsbD 7 && !(id == 0xFF)) (id.getLsbD 6 && !(id == 0xFF))
      (isReboot csr payload) (id.extractLsb' 0 6) (CsrClass.ofByte csr).code := rfl

section RouteWord
variable (bcast mcast relay reboot : Bool) (node : BitVec 6) (cls : BitVec 4)

theorem routeWord_flags :
    let r := routeWord bcast mcast relay reboot node cls
    r.getLsbD 0 = bcast ∧ r.getLsbD 1 = mcast ∧ r.getLsbD 2 = relay ∧ r.getLsbD 3 = reboot := by
  simp [routeWord, getLsbD_flagBit, -BitVec.getLsbD_eq_getElem]

theorem routeWord_fields :
    let r := routeWord bcast mcast relay reboot node cls
    r.extractLsb' 8 6 = node ∧ r.extractLsb' 16 4 = cls := by
  simp (disch := omega) only [routeWord, BitVec.extractLsb'_or, extractLsb'_flagBit_outside,
    extractLsb'_shiftLeft_below, extractLsb'_shiftLeft_above, extractLsb'_setWidth_above, extractLsb'_setWidth_self,
    Nat.sub_self, BitVec.or_zero, BitVec.zero_or, and_self]

theorem routeWord_reserved :
    let r := routeWord bcast mcast relay reboot node cls
    r.extractLsb' 4 4 = 0 ∧ r.extractLsb' 14 2 = 0 ∧ r.extractLsb' 20 12 = 0 := by
  simp (disch := omega) only [routeWord, BitVec.extractLsb'_or, extractLsb'_flagBit_outside,
    extractLsb'_shiftLeft_below, extractLsb'_shiftLeft_above, extractLsb'_setWidth_above, BitVec.or_zero,
    BitVec.ofNat_eq_ofNat, and_self]

end RouteWord

/-! ## The values of the fields (R160 to R164) -/

theorem byte_beq_eq_decide (b c : Byte) : (b == c) = decide (b.toNat = c.toNat) := by
  rw [Bool.eq_iff_iff, beq_iff_eq, decide_eq_true_iff, BitVec.toNat_inj]

theorem isReboot_eq (csr : Byte) (payload : List Byte) :
    isReboot csr payload = (decide (csr.toNat = 0xFE) && decide (payload = [0xAD, 0xDE])) := by
  have magic : (payload == [0xAD, 0xDE]) = decide (payload = [0xAD, 0xDE]) := by
    rw [Bool.eq_iff_iff, beq_iff_eq, decide_eq_true_iff]
  rw [isReboot, byte_beq_eq_decide, magic]
  rfl

/-- The demultiplexer's class of a csrAddress has the code of R163's table. -/
theorem code_ofByte_toNat (b : Byte) : (CsrClass.ofByte b).code.toNat = csrClassTable b.toNat := by
  have device_range : b.toNat < 0xF0 ↔ b.toNat ≤ 0xEF := Nat.lt_succ_iff
  simp only [CsrClass.ofByte, csrClassTable, device_range, ← BitVec.toNat_inj, apply_ite CsrClass.code,
    apply_ite BitVec.toNat]
  rfl

section Demux
variable (id csr : Byte) (payload : List Byte)

/-- BCAST, MCAST, RELAY and REBOOT (R161, R162, R164). -/
theorem demux_flags :
    let r := demux id csr payload
    r.getLsbD 0 = decide (id.toNat = 0xFF)
      ∧ r.getLsbD 1 = (decide (128 ≤ id.toNat) && decide (id.toNat ≠ 0xFF))
      ∧ r.getLsbD 2 = (decide (64 ≤ id.toNat % 128) && decide (id.toNat ≠ 0xFF))
      ∧ r.getLsbD 3 = (decide (csr.toNat = 0xFE) && decide (payload = [0xAD, 0xDE])) := by
  have top_bit : id.getLsbD 7 = decide (128 ≤ id.toNat) := BitVec.msb_eq_decide id
  have relay_bit : id.getLsbD 6 = decide (64 ≤ id.toNat % 128) := getLsbD_eq_two_pow_le_mod id 6
  have broadcast : (id == 0xFF) = decide (id.toNat = 0xFF) := byte_beq_eq_decide id 0xFF
  have not_broadcast : (!(id == 0xFF)) = decide (id.toNat ≠ 0xFF) := by rw [broadcast, ← decide_not]
  rw [demux_eq_routeWord, ← isReboot_eq, ← top_bit, ← relay_bit, ← not_broadcast, ← broadcast]
  exact routeWord_flags ..

theorem demux_node : ((demux id csr payload).extractLsb' 8 6).toNat = id.toNat % 64 := by
  rw [demux_eq_routeWord, (routeWord_fields ..).1]
  exact BitVec.extractLsb'_toNat ..

theorem demux_class : ((demux id csr payload).extractLsb' 16 4).toNat = csrClassTable csr.toNat := by
  rw [demux_eq_routeWord, (routeWord_fields ..).2, code_ofByte_toNat]

theorem demux_reserved :
    let r := demux id csr payload
    r.extractLsb' 4 4 = 0 ∧ r.extractLsb' 14 2 = 0 ∧ r.extractLsb' 20 12 = 0 :=
  routeWord_reserved ..

end Demux

/-- Settles O26: the word is the layout of R38 at R160's values, so each field is read back from its own bits; a
broadcast id is all ones, which the clauses of MCAST, RELAY and NODE then evaluate. -/
theorem demuxWordFields : Obligations.DemuxWordFields := by
  intro id csr payload r
  obtain ⟨hbcast, hmcast, hrelay, hreboot⟩ := demux_flags id csr payload
  obtain ⟨hres4, hres14, hres20⟩ := demux_reserved id csr payload
  have hnode := demux_node id csr payload
  refine ⟨hbcast, hmcast, hrelay, hreboot, hres4, hnode, hres14, demux_class id csr payload, hres20, fun hff => ?_⟩
  rw [hmcast, hrelay, hnode, hff]
  decide

end Sys2Proof.Proofs
end

section
/-! PROOFS. The payload family: the outcomes of DECODE_PAYLOAD (R175), and DECODE_DISPATCH as DECODE followed by it
(R180). -/

open Sys2Proof Sys2Proof.Machine

namespace Sys2Proof.Proofs

/-! ## The schema selector (R102) -/

section Selector
variable {sel : BitVec 4} {sc : Schema}

theorem isSome_ofSel (sel : BitVec 4) : (Schema.ofSel sel).isSome = decide (sel.toNat ≤ 2) := by
  revert sel
  decide

theorem ofSel_eq_none (h : 2 < sel.toNat) : Schema.ofSel sel = none := by
  rw [← Option.not_isSome_iff_eq_none, isSome_ofSel, decide_eq_true_iff]
  exact Nat.not_le.mpr h

theorem exists_ofSel_eq_some (h : sel.toNat ≤ 2) : ∃ sc, Schema.ofSel sel = some sc := by
  rwa [← Option.isSome_iff_exists, isSome_ofSel, decide_eq_true_iff]

theorem ofSel_eq_some (h : sel.toNat = selectorTable sc) : Schema.ofSel sel = some sc := by
  have hsel : sel = BitVec.ofNat 4 (selectorTable sc) := by rw [← h, BitVec.ofNat_toNat, BitVec.setWidth_eq]
  subst hsel
  cases sc <;> rfl

theorem width_eq_widthTable (sc : Schema) : sc.width = widthTable sc := by
  cases sc <;> rfl

end Selector

/-! ## The record (R170 to R175)

The fields of a schema stand back to back, so its layout determines the payload bytes of every REC word. -/

/-- The payload bytes of each field of a layout that starts at offset a, as (offset, size). -/
def fieldSpans : List FieldType → Nat → List (Nat × Nat)
  | [], _ => []
  | t :: ts, a => (a, t.size) :: fieldSpans ts (a + t.size)

theorem readFields_drop (ts : List FieldType) (bytes : List Byte) (a : Nat) :
    readFields ts (bytes.drop a) = (fieldSpans ts a).map fun p => leValue (slice bytes p.1 p.2) := by
  induction ts generalizing a with
  | nil => rfl
  | cons t ts ih => rw [readFields, List.drop_drop, ih, fieldSpans, List.map_cons, slice]

/-- The tables of R171 to R173 are the spans of the layouts. -/
theorem fieldSpans_layout (sc : Schema) : fieldSpans sc.layout 0 = recordTable sc := by
  cases sc <;> rfl

theorem length_recordTable (sc : Schema) : (recordTable sc).length = countTable sc := by
  cases sc <;> rfl

/-- REC after a payload decoding, word by word: the bytes that the schema's table gives it, or 0 past the table. -/
theorem getElem_recordOf_readFields (sc : Schema) (payload : List Byte) (j : Fin 32) :
    (recordOf (readFields sc.layout payload))[j]
      = ((recordTable sc)[j.val]?.map fun p => leValue (slice payload p.1 p.2)).getD 0 := by
  have hfields : readFields sc.layout payload = (recordTable sc).map fun p => leValue (slice payload p.1 p.2) := by
    rw [← fieldSpans_layout, ← readFields_drop, List.drop_zero]
  rw [hfields, ← List.getElem?_map]
  simp [recordOf]

theorem pInfoWord_fields (sc : Schema) (srcval : Bool) :
    ((pInfoWord sc srcval).extractLsb' 0 4).toNat = selectorTable sc ∧ (pInfoWord sc srcval).extractLsb' 4 4 = 0
      ∧ ((pInfoWord sc srcval).extractLsb' 8 8).toNat = countTable sc ∧ (pInfoWord sc srcval).getLsbD 16 = srcval
      ∧ (pInfoWord sc srcval).extractLsb' 17 15 = 0 := by
  cases sc <;> cases srcval <;> decide

/-- A decoded record is the one that the tables give, for a payload of any length. -/
theorem recordsPayload_setRecord_finish (s : State) (sc : Schema) (payload : List Byte) :
    RecordsPayload s ((s.setRecord sc payload).finish .ok) sc payload where
  fields j off size hspan := by
    rw [State.finish_record, State.setRecord_record, getElem_recordOf_readFields, hspan]
    rfl
  rest j hj := by
    have past_table : (recordTable sc)[j.val]? = none :=
      List.getElem?_eq_none_iff.mpr (length_recordTable sc ▸ hj)
    rw [State.finish_record, State.setRecord_record, getElem_recordOf_readFields, past_table]
    rfl
  info := pInfoWord_fields sc s.plval
  rest_same := rfl

/-! ## DECODE_PAYLOAD -/

section DecodePayload
variable {sel : BitVec 4} {sc : Schema} {s : State}

theorem decodePayloadAs_of_plLen_ne (h : s.plLen.toNat ≠ widthTable sc) :
    decodePayloadAs sc s = .next (s.clearRecord.finish .payloadLengthMismatch) :=
  if_neg (width_eq_widthTable sc ▸ h)

/-- PL_LEN of the schema's width: the read of the payload decides. -/
theorem decodePayloadAs_of_plLen_eq (h : s.plLen.toNat = widthTable sc) :
    decodePayloadAs sc s = withRead (readBytes s .plb 0 (widthTable sc)) fun payload =>
      complete (s.setRecord sc payload) := by
  rw [decodePayloadAs, width_eq_widthTable, if_pos h]

theorem decodePayloadAs_of_read {payload : List Byte} (h : s.plLen.toNat = widthTable sc)
    (hread : readBytes s .plb 0 (widthTable sc) = .ok payload) :
    decodePayloadAs sc s = .next ((s.setRecord sc payload).finish .ok) := by
  rw [decodePayloadAs_of_plLen_eq h, hread, withRead_ok, complete]

theorem decodePayloadAs_of_unwritten {f : Fault} (h : s.plLen.toNat = widthTable sc)
    (hread : readBytes s .plb 0 (widthTable sc) = .error f) : decodePayloadAs sc s = .fault f := by
  rw [decodePayloadAs_of_plLen_eq h, hread, withRead_error]

/-- The completion is written anew, and the body reads none of its fields: one made before it leaves no trace. -/
theorem decodePayloadAs_finish (sc : Schema) (s : State) (e : ErrCode) :
    decodePayloadAs sc (s.finish e) = decodePayloadAs sc s := rfl

theorem exec_decodePayload (sel : BitVec 4) (s : State) : exec (.decodePayload sel) s = execDecodePayload sel s := rfl

theorem exec_decodePayload_of_reserved (h : Schema.ofSel sel = none) :
    exec (.decodePayload sel) s = .next (s.finish .badSchema) := by
  rw [exec_decodePayload, execDecodePayload, h, raise]

theorem exec_decodePayload_of_schema (h : Schema.ofSel sel = some sc) :
    exec (.decodePayload sel) s = decodePayloadAs sc s := by
  rw [exec_decodePayload, execDecodePayload, h]

end DecodePayload

/-- Settles O30: a selector above 2 names no schema; any other runs the body of R175 for its schema, and PL_LEN and the
read of PLB[0..W) decide how that ends. -/
theorem decodePayloadOutcomes : Obligations.DecodePayloadOutcomes := by
  refine ⟨rfl, rfl, rfl, fun sel s => ⟨fun hreserved => ?_, fun sc hsel => ?_⟩⟩
  · exact exec_decodePayload_of_reserved (ofSel_eq_none hreserved)
  · rw [exec_decodePayload_of_schema (ofSel_eq_some hsel)]
    exact ⟨fun hlen => decodePayloadAs_of_plLen_ne hlen,
      fun hlen payload hread =>
        ⟨_, decodePayloadAs_of_read hlen hread, recordsPayload_setRecord_finish s sc payload⟩,
      fun hlen f hread => decodePayloadAs_of_unwritten hlen hread⟩

/-! ## DECODE_DISPATCH -/

section DecodeDispatch
variable {sel : BitVec 4} {sc : Schema} {s : State}

theorem errCode_ne_ok : ∀ e : DecodeError, e.errCode ≠ .ok
  | .range => nofun
  | .frame (.truncated _ _) => nofun
  | .frame (.unknownSync _) => nofun
  | .frame (.extendedLength _) => nofun

/-- DECODE faults only in the fetch. -/
theorem fetchFrame_of_exec_decode_fault {f : Fault} (h : exec .decode s = .fault f) : fetchFrame s = .error f := by
  rcases withRead_eq_fault.mp h with hfetch | ⟨r, -, hends⟩
  · exact hfetch
  · match r, hends with
    | .error _, hends => cases hends
    | .ok _, hends => cases hends

theorem withFrame_of_fetchFrame_error {fails : DecodeError → Result} {found : SyncWord → Frame → Result}
    {e : DecodeError} (h : fetchFrame s = .ok (.error e)) : withFrame s fails found = fails e := by
  rw [withFrame, h, withRead_ok]

theorem exec_decodeDispatch (sel : BitVec 4) (s : State) :
    exec (.decodeDispatch sel) s = execDecodeDispatch sel s := rfl

theorem exec_decodeDispatch_of_reserved (h : Schema.ofSel sel = none) :
    exec (.decodeDispatch sel) s = .next (s.finish .badSchema) := by
  rw [exec_decodeDispatch, execDecodeDispatch, h, raise]

theorem exec_decodeDispatch_of_schema (h : Schema.ofSel sel = some sc) :
    exec (.decodeDispatch sel) s =
      withFrame s (fun e => decodeFails e s.clearRecord) fun k f => dispatchCommitted sc (s.commit k f) := by
  rw [exec_decodeDispatch, execDecodeDispatch, h]

theorem exec_decodeDispatch_of_fetchFrame_fault {f : Fault} (h : Schema.ofSel sel = some sc)
    (hfetch : fetchFrame s = .error f) : exec (.decodeDispatch sel) s = .fault f := by
  rw [exec_decodeDispatch_of_schema h, withFrame, hfetch, withRead_error]

theorem exec_decodeDispatch_of_fetchFrame_error {e : DecodeError} (h : Schema.ofSel sel = some sc)
    (hfetch : fetchFrame s = .ok (.error e)) :
    exec (.decodeDispatch sel) s = .next ((s.clearRecord.commitError e).finish e.errCode) := by
  rw [exec_decodeDispatch_of_schema h, withFrame_of_fetchFrame_error hfetch, decodeFails, raise]

theorem exec_decodeDispatch_of_fetchFrame_ok {k : SyncWord} {f : Frame} (h : Schema.ofSel sel = some sc)
    (hfetch : fetchFrame s = .ok (.ok (k, f))) :
    exec (.decodeDispatch sel) s = dispatchCommitted sc (s.commit k f) := by
  rw [exec_decodeDispatch_of_schema h, withFrame_of_fetchFrame_ok hfetch]

theorem dispatchCommitted_of_invalid (sc : Schema) (h : (s.hvalid && s.tvalid) = false) :
    dispatchCommitted sc s = .next (s.clearRecord.finish .notValidated) :=
  if_neg (Bool.not_eq_true _ ▸ h)

theorem dispatchCommitted_of_valid (sc : Schema) (hh : s.hvalid = true) (ht : s.tvalid = true) :
    dispatchCommitted sc s = decodePayloadAs sc s :=
  if_pos (Bool.and_eq_true_iff.mpr ⟨hh, ht⟩)

end DecodeDispatch

/-- Settles O32: both commands fetch the same frame, so the outcome of DECODE says which branch of R180 runs. The record
is cleared before the commit on an error and after it otherwise; DECODE_PAYLOAD's completion overwrites DECODE's. -/
theorem dispatchRefinesDecodeThenPayload : Obligations.DispatchRefinesDecodeThenPayload := by
  refine ⟨rfl, rfl, rfl, fun sel s => ⟨fun hreserved => ?_, fun hsel => ?_⟩⟩
  · exact exec_decodeDispatch_of_reserved (ofSel_eq_none hreserved)
  obtain ⟨sc, hsc⟩ := exists_ofSel_eq_some hsel
  refine ⟨fun f hfault => ?_, fun t hnext => ?_⟩
  · exact exec_decodeDispatch_of_fetchFrame_fault hsc (fetchFrame_of_exec_decode_fault hfault)
  rcases execDecode_eq_next hnext with ⟨e, hfetch, rfl⟩ | ⟨k, f, hfetch, rfl⟩
  · have failed : ((s.commitError e).finish e.errCode).err ≠ .ok := errCode_ne_ok e
    exact ⟨fun _ => exec_decodeDispatch_of_fetchFrame_error hsc hfetch, fun hok => absurd hok failed,
      fun hok => absurd hok failed⟩
  · rw [exec_decodeDispatch_of_fetchFrame_ok hsc hfetch]
    refine ⟨fun hfailed => absurd rfl hfailed, fun _ hinvalid => ?_, fun _ hh ht => ?_⟩
    · exact dispatchCommitted_of_invalid sc hinvalid
    · rw [exec_decodePayload_of_schema hsc, decodePayloadAs_finish]
      exact dispatchCommitted_of_valid sc hh ht

end Sys2Proof.Proofs
end

section
/-! PROOFS. The exceptions family: NOP's completion, and a word with opcode 0 and another bit set (R197). -/

open Sys2Proof Sys2Proof.Machine

namespace Sys2Proof.Proofs

/-- The fields of R24 cover the command word, so a word whose fields are all 0 is NOP's. -/
theorem word_eq_zero_of_fields {w : Word} (hop : w.extractLsb' 0 4 = 0) (hsync : w.extractLsb' 4 2 = 0)
    (hres6 : w.extractLsb' 6 2 = 0) (hschema : w.extractLsb' 8 4 = 0) (hres12 : w.extractLsb' 12 20 = 0) : w = 0 := by
  simp only [← BitVec.toNat_inj, BitVec.extractLsb'_toNat] at hop hsync hres6 hschema hres12 ⊢
  bv_omega

/-- Opcode 0 uses no field, so each other bit of the word makes it illegal (R104, R197). -/
theorem illegalWord_of_opcode_zero {w : Word} (hop : w.extractLsb' 0 4 = 0) (hw : w ≠ 0) : IllegalWord w := by
  refine Classical.byContradiction fun hlegal => hw ?_
  simp only [IllegalWord, hop, not_or, not_and, Classical.not_not] at hlegal
  obtain ⟨-, hres6, hres12, hsync, hschema⟩ := hlegal
  have syncsel_zero : w.extractLsb' 4 2 = 0 := Classical.byContradiction fun h => absurd (hsync h) (by decide)
  have schema_zero : w.extractLsb' 8 4 = 0 := Classical.byContradiction fun h =>
    absurd (hschema h (by decide)) (by decide)
  exact word_eq_zero_of_fields hop syncsel_zero hres6 schema_zero hres12

theorem exec_nop (s : State) : exec .nop s = .next (s.finish .ok) := rfl

/-- Settles O12: NOP is the completion alone, and a word with opcode 0 and another bit set is one of R104's. -/
theorem nopCompletes : Obligations.NopCompletes :=
  ⟨rfl, exec_nop, fun _ _ hop hw ht hp =>
    step_of_decodeCmd_error ht hp (decodeCmd_of_illegalWord (illegalWord_of_opcode_zero hop hw))⟩

end Sys2Proof.Proofs
end

section
/-! PROOFS. The reset family: the rst step takes every register to its reset value and clears every written bit (R210). -/

open Sys2Proof Sys2Proof.Machine

namespace Sys2Proof.Proofs

/-! ## The reset state -/

theorem reset_regWord (r : Reg) : State.reset.regWord r = 0 := by
  cases r with
  | record k => exact Vector.getElem_replicate k.isLt
  | _ => rfl

theorem reset_byte (b : Buffer) (i : Nat) : State.reset.byte b i = none := rfl

/-! ## The rst step -/

section Rst
variable (s : State)

/-- rst makes every register the reset state's; the fields it keeps are the model's own, and no register shows them. -/
theorem rst_regWord (r : Reg) : s.rst.regWord r = State.reset.regWord r := by
  cases r <;> rfl

@[simp] theorem rst_pending : s.rst.pending = none := rfl

theorem rst_byte (b : Buffer) (i : Nat) : s.rst.byte b i = State.reset.byte b i := rfl

@[simp] theorem rst_inputs : s.rst.inputs = s.inputs := rfl

end Rst

/-- With rst next, the step asks nothing else of the state: no command, flag or register decides it. -/
theorem step_of_rst {s : State} {rest : List Input} (h : s.inputs = .rst :: rest) : step s = .next s.advance.rst := by
  rw [step, h, ← advance_of_cons h]
  rfl

theorem advance_inputs_of_cons {s : State} {x : Input} {rest : List Input} (h : s.inputs = x :: rest) :
    s.advance.inputs = rest := by
  rw [← advance_of_cons h]

/-- Settles O1: the rst step answers the reset state but for the model's own fields, and the reset state reads 0 in every
register and holds no written byte. -/
theorem rstStepResetsEveryRegister : Obligations.RstStepResetsEveryRegister := by
  refine ⟨fun s rest hrst => ⟨s.advance.rst, step_of_rst hrst, fun r => ?_, rst_pending _, fun b i => ?_, ?_⟩,
    reset_regWord, rfl, reset_byte⟩
  · rw [rst_regWord, reset_regWord]
  · rw [rst_byte, reset_byte]
  · rw [rst_inputs, advance_inputs_of_cons hrst]

end Sys2Proof.Proofs
end

section
/-! PROOFS. The invariants: each is a predicate that every elementary update of the state keeps, so every step keeps
it. -/

open Sys2Proof Sys2Proof.Machine

namespace Sys2Proof.Proofs

/-! ## Invariants, update by update

`Moves` and `Writes` make every step out of a few elementary updates. A predicate that each of them keeps is kept by
every step; the parameters of an update are arbitrary unless a bound is named. -/

/-- P holds of the reset state, and each elementary update of the model keeps it. -/
structure Kept (P : State → Prop) : Prop where
  reset : P State.reset
  /-- OVERRUN and the model's own fields -/
  own : ∀ s overrun inputs rdata draws, P s →
    P { s with overrun := overrun, inputs := inputs, hostRdata := rdata, draws := draws }
  /-- a write to CMD -/
  issue : ∀ s w, P s → P (s.issue w)
  /-- a write to RX_LEN, ENC_HDR, CRC_OFF or CRC_LEN -/
  operands : ∀ s rxLen id flags csr off len, P s →
    P { s with rxLen := rxLen, encId := id, encFlags := flags, encCsr := csr, crcOff := off, crcLen := len }
  /-- a write to PL_LEN -/
  plLen : ∀ s v, P s → P { s with plLen := v, plval := false }
  rxb : ∀ s j v, j < Buffer.rxb.size → P s → P (s.writeBytes .rxb j [v])
  plb : ∀ s j v, j < Buffer.plb.size → P s → P { s.writeBytes .plb j [v] with plval := false }
  crc : ∀ s v, P s → P { s with crcResult := v }
  encodeFails : ∀ s, P s → P { s with txLen := 0 }
  encodes : ∀ s k id flags csr payload, SyncWord.isResponse k = false → payload.length ≤ 254 → P s →
    P { s.writeBytes .txb 0 (buildFrame k id flags csr payload) with
        txLen := BitVec.ofNat 16 (buildFrame k id flags csr payload).length }
  commitError : ∀ s e, P s → P (s.commitError e)
  commit : ∀ s k f, f.payload.length ≤ 254 → P s → P (s.commit k f)
  clearRecord : ∀ s, P s → P s.clearRecord
  setRecord : ∀ s sc payload, P s → P (s.setRecord sc payload)
  finish : ∀ s e, P s → P (s.finish e)

section Kept
variable {P : State → Prop} {s t : State}

/-- The selectors that ENCODE accepts are the two request sync words (R101, R130). -/
theorem isResponse_ofSel {sel : BitVec 2} (h : sel.toNat < 2) : (SyncWord.ofSel sel).isResponse = false := by
  revert sel
  decide

theorem Kept.writes (hP : Kept P) {i : Instr} (hs : P s) (h : Writes i s t) : P t := by
  cases h with
  | nothing => exact hs
  | crc => exact hP.crc _ _ hs
  | encodeFails => exact hP.encodeFails _ hs
  | encodes _ _ payload hsel hl => exact hP.encodes _ _ _ _ _ payload (isResponse_ofSel hsel) hl hs
  | decodeFails => exact hP.commitError _ _ hs
  | commits _ _ k f _ hl => exact hP.commit _ k f hl hs
  | clears => exact hP.clearRecord _ hs
  | records => exact hP.setRecord _ _ _ hs
  | dispatchFails => exact hP.commitError _ _ (hP.clearRecord _ hs)
  | dispatchClears _ _ k f hl => exact hP.clearRecord _ (hP.commit _ k f hl hs)
  | dispatchRecords _ _ k f _ _ hl => exact hP.setRecord _ _ _ (hP.commit _ k f hl hs)

theorem Kept.writeReg (hP : Kept P) (r : Reg) (v : Word) (hs : P s) : P (s.writeReg r v) := by
  cases r with
  | cmd => exact hP.issue _ _ hs
  | status =>
    rw [State.writeReg]
    split
    · exact hP.own s false s.inputs s.hostRdata s.draws hs
    · exact hs
  | plLen => exact hP.plLen _ _ hs
  | rxLen => exact hP.operands s _ s.encId s.encFlags s.encCsr s.crcOff s.crcLen hs
  | encHdr => exact hP.operands s s.rxLen _ _ _ s.crcOff s.crcLen hs
  | crcOff => exact hP.operands s s.rxLen s.encId s.encFlags s.encCsr _ s.crcLen hs
  | crcLen => exact hP.operands s s.rxLen s.encId s.encFlags s.encCsr s.crcOff _ hs
  | _ => exact hs

theorem Kept.writeByte (hP : Kept P) {b : Buffer} {j : Nat} (hj : j < b.size) (v : Byte) (hs : P s) :
    P (s.writeByte b j v) := by
  cases b with
  | rxb => exact hP.rxb s j v hj hs
  | txb => exact hs
  | plb => exact hP.plb s j v hj hs

theorem Kept.moves (hP : Kept P) (hs : P s) (h : Moves s t) : P t := by
  cases h with
  | idles => exact hs
  | runs _ _ _ _ _ _ hw => exact hP.finish _ _ (hP.writes hs hw)
  | badCommand => exact hP.finish _ _ hs
  | resets => exact hP.own State.reset _ s.inputs s.hostRdata s.draws hP.reset
  | reads v d => exact hP.own s s.overrun s.inputs v d hs
  | overruns => exact hP.own s true s.inputs s.hostRdata s.draws hs
  | writesReg r v => exact hP.writeReg r v hs
  | writesByte b j v _ hj => exact hP.writeByte hj v hs

/-- A predicate that the elementary updates keep is kept by every step. -/
theorem Kept.step (hP : Kept P) (hs : P s) (h : step s = .next t) : P t :=
  hP.moves (hP.own s s.overrun s.inputs.tail s.hostRdata s.draws hs) (step_eq_next h)

end Kept

/-! ## The form of memory -/

theorem buildFrame_length (k : SyncWord) (id flags csr : Byte) (payload : List Byte) :
    (buildFrame k id flags csr payload).length = 6 + k.width + payload.length + k.width :=
  Laws.encodeFrame_length ..

theorem buildFrame_length_le (k : SyncWord) (id flags csr : Byte) {payload : List Byte} (h : payload.length ≤ 254) :
    (buildFrame k id flags csr payload).length ≤ 268 :=
  buildFrame_length k id flags csr payload ▸ frameLength_le h

/-- The sizes of R8. -/
theorem buffer_sizes : Buffer.rxb.size = 512 ∧ Buffer.txb.size = 512 ∧ Buffer.plb.size = 256 := ⟨rfl, rfl, rfl⟩

/-- RXB, TXB and PLB stand one after another (R23). -/
theorem buffers_adjacent :
    Buffer.rxb.base + Buffer.rxb.size = Buffer.txb.base
      ∧ Buffer.txb.base + Buffer.txb.size = Buffer.plb.base := ⟨rfl, rfl⟩

/-- A write of bytes inside a buffer keeps the canonical form. -/
theorem writeBytes_mem_wf {s : State} {b : Buffer} {a : Nat} {bytes : List Byte} (h : s.mem.wf)
    (hfits : a + bytes.length ≤ b.size) : (s.writeBytes b a bytes).mem.wf := by
  have hb : 0x400 ≤ b.base ∧ b.base + b.size ≤ 0x900 := by cases b <;> decide
  exact Memory.setMany_wf bytes h (by omega) (by omega)

theorem memoryCanonical_kept : Kept fun s => s.mem.wf where
  reset := reset_mem_wf
  own _ _ _ _ _ h := h
  issue _ _ h := h
  operands _ _ _ _ _ _ _ h := h
  plLen _ _ h := h
  rxb _ _ _ hj h := writeBytes_mem_wf h hj
  plb _ _ _ hj h := writeBytes_mem_wf h hj
  crc _ _ h := h
  encodeFails _ h := h
  encodes _ k id flags csr _ _ hl h := writeBytes_mem_wf h <| by
    have := buildFrame_length_le k id flags csr hl
    have := buffer_sizes
    omega
  commitError _ _ h := h
  commit _ _ _ hl h := writeBytes_mem_wf h <| by
    have := buffer_sizes
    omega
  clearRecord _ h := h
  setRecord _ _ _ h := h
  finish _ _ h := h

/-- Settles O47: every byte written, by the host or by a command, is inside its buffer. -/
theorem stepKeepsMemoryCanonical : Obligations.StepKeepsMemoryCanonical :=
  fun _ _ hs h => memoryCanonical_kept.step hs h

/-! ## The handshake -/

theorem handshake_kept : Kept State.handshake where
  reset := ⟨rfl, nofun⟩
  own _ _ _ _ _ h := h
  issue _ _ _ := ⟨rfl, fun _ hw => ⟨(Option.some.inj hw).symm, rfl⟩⟩
  operands _ _ _ _ _ _ _ h := h
  plLen _ _ h := h
  rxb _ _ _ _ h := h
  plb _ _ _ _ h := h
  crc _ _ h := h
  encodeFails _ h := h
  encodes _ _ _ _ _ _ _ _ h := h
  commitError _ _ h := h
  commit _ _ _ _ h := h
  clearRecord _ h := h
  setRecord _ _ _ h := h
  finish _ _ _ := ⟨rfl, nofun⟩

/-- Settles O48: only the issue and the completion write the fields of the handshake, and each sets them all. -/
theorem stepKeepsHandshake : Obligations.StepKeepsHandshake :=
  fun _ _ hs h => handshake_kept.step hs h

/-! ## Reserved bits -/

theorem dSyncWord_reserved (k : SyncWord) : (dSyncWord k).extractLsb' 18 14 = 0 := by
  obtain ⟨-, -, -, hreserved⟩ := dSyncWord_fields k
  exact hreserved

/-- D_SYNC after an error holds the sync word alone, or is a legal one's (R149). -/
theorem decodeError_sync_reserved : ∀ e : DecodeError, e.sync.extractLsb' 18 14 = 0
  | .range => BitVec.extractLsb'_zero
  | .frame (.truncated none _) => BitVec.extractLsb'_zero
  | .frame (.truncated (some k) _) => dSyncWord_reserved k
  | .frame (.unknownSync v) => extractLsb'_setWidth_above v (by decide)
  | .frame (.extendedLength k) => dSyncWord_reserved k

theorem reservedZero_kept : Kept State.reservedZero where
  reset := by unfold State.reservedZero; decide
  own _ _ _ _ _ h := h
  issue _ _ h := h
  operands _ _ _ _ _ _ _ h := h
  plLen _ _ h := h
  rxb _ _ _ _ h := h
  plb _ _ _ _ h := h
  crc _ _ h := h
  encodeFails _ h := h
  encodes _ _ _ _ _ _ _ _ h := h
  commitError s e h := by
    obtain ⟨-, -, -, -, hinfo⟩ := h
    exact ⟨decodeError_sync_reserved e, BitVec.extractLsb'_zero, BitVec.extractLsb'_zero, BitVec.extractLsb'_zero,
      hinfo⟩
  commit s k f _ h := by
    obtain ⟨-, -, -, -, hinfo⟩ := h
    obtain ⟨h4, h14, h20⟩ := demux_reserved f.id f.csr f.payload
    exact ⟨dSyncWord_reserved k, h4, h14, h20, hinfo⟩
  clearRecord s h := by
    obtain ⟨hsync, h4, h14, h20, -⟩ := h
    exact ⟨hsync, h4, h14, h20, BitVec.extractLsb'_zero, BitVec.extractLsb'_zero⟩
  setRecord s sc payload h := by
    obtain ⟨hsync, h4, h14, h20, -⟩ := h
    obtain ⟨-, hinfo4, -, -, hinfo17⟩ := pInfoWord_fields sc s.plval
    exact ⟨hsync, h4, h14, h20, hinfo4, hinfo17⟩
  finish _ _ h := h

/-- Settles O49: the words that a commit, an error and a record write have 0 in their reserved bits. -/
theorem stepKeepsReservedBitsZero : Obligations.StepKeepsReservedBitsZero :=
  fun _ _ hs h => reservedZero_kept.step hs h

/-! ## The frame flags -/

theorem frameFlagsSound_kept : Kept State.frameFlagsSound where
  reset := ⟨nofun, fun _ => by decide⟩
  own _ _ _ _ _ h := h
  issue _ _ h := h
  operands _ _ _ _ _ _ _ h := h
  plLen _ _ h := h
  rxb _ _ _ _ h := h
  plb _ _ _ _ h := h
  crc _ _ h := h
  encodeFails _ h := h
  encodes _ _ _ _ _ _ _ _ h := h
  commitError _ _ _ := ⟨nofun, fun _ => ⟨rfl, rfl, rfl, rfl, rfl, rfl, rfl, rfl⟩⟩
  commit _ _ _ _ _ := ⟨fun _ => ⟨rfl, rfl⟩, nofun⟩
  clearRecord _ h := h
  setRecord _ _ _ h := h
  finish _ _ h := h

/-- Settles O50: a commit sets both flags to their comparisons, an error clears them with the D_* registers, and nothing
else writes either. -/
theorem stepKeepsFrameFlagsSound : Obligations.StepKeepsFrameFlagsSound :=
  fun _ _ hs h => frameFlagsSound_kept.step hs h

/-! ## The record -/

theorem recordSound_kept : Kept State.recordSound where
  reset := ⟨fun _ => ⟨rfl, rfl⟩, nofun⟩
  own _ _ _ _ _ h := h
  issue _ _ h := h
  operands _ _ _ _ _ _ _ h := h
  plLen _ _ h := h
  rxb _ _ _ _ h := h
  plb _ _ _ _ h := h
  crc _ _ h := h
  encodeFails _ h := h
  encodes _ _ _ _ _ _ _ _ h := h
  commitError _ _ h := h
  commit _ _ _ _ h := h
  clearRecord _ _ := ⟨fun _ => ⟨rfl, rfl⟩, nofun⟩
  setRecord s sc payload _ := by
    have hcount : sc.count = countTable sc := by cases sc <;> rfl
    exact ⟨nofun, fun _ => ⟨sc, s.plval, rfl, fun j hj =>
      (recordsPayload_setRecord_finish s sc payload).rest j (hcount ▸ hj)⟩⟩
  finish _ _ h := h

/-- Settles O51: a failed payload decoding clears the record with RVALID, and another writes it by its schema. -/
theorem stepKeepsRecordSound : Obligations.StepKeepsRecordSound :=
  fun _ _ hs h => recordSound_kept.step hs h

/-! ## PLVAL -/

/-- A write outside a range of a buffer leaves a read of it. -/
theorem readBytes_writeBytes_outside {s : State} {b c : Buffer} {a i n : Nat} {bytes : List Byte}
    (h : c.base + i + n ≤ b.base + a ∨ b.base + a + bytes.length ≤ c.base + i) :
    readBytes (s.writeBytes b a bytes) c i n = readBytes s c i n :=
  readBytes_congr fun j h1 h2 => byte_writeBytes_outside s b c a j bytes (by omega)

/-- PLVAL's promise is kept by what leaves the registers and the bytes it speaks of. -/
theorem payloadVouched_writeBytes {s : State} {b : Buffer} {a : Nat} {bytes : List Byte} (h : s.payloadVouched)
    (hbelow : b.base + a + bytes.length ≤ Buffer.plb.base) : (s.writeBytes b a bytes).payloadVouched := by
  intro hv
  obtain ⟨hd, hh, ht, hlen, k, payload, hsync, hread, hcrc⟩ := h hv
  exact ⟨hd, hh, ht, hlen, k, payload, hsync, (readBytes_writeBytes_outside (.inr hbelow)).trans hread, hcrc⟩

theorem payloadVouched_commit (s : State) (k : SyncWord) {f : Frame} (hl : f.payload.length ≤ 254) :
    (s.commit k f).payloadVouched := by
  intro hv
  rw [State.commit_plval, Bool.and_eq_true, beq_iff_eq, beq_iff_eq] at hv
  obtain ⟨hh, ht⟩ := hv
  have hlen : (BitVec.ofNat 8 f.payload.length).toNat = f.payload.length := Nat.mod_eq_of_lt (by omega)
  obtain ⟨-, -, -, hhdr⟩ := dHdrWord_fields f.id f.flags f.csr (Nat.lt_of_le_of_lt hl (by decide))
  refine ⟨rfl, beq_iff_eq.mpr hh, beq_iff_eq.mpr ht, BitVec.eq_of_toNat_eq (hhdr.trans hlen.symm), k, f.payload,
    rfl, ?_, ht⟩
  rw [State.commit_plLen, hlen]
  exact readBytes_writeBytes s .plb 0 f.payload

theorem payloadVouched_kept : Kept State.payloadVouched where
  reset := nofun
  own _ _ _ _ _ h := h
  issue _ _ h := h
  operands _ _ _ _ _ _ _ h := h
  plLen _ _ _ := nofun
  rxb s j v hj h := payloadVouched_writeBytes h <| by
    have := buffers_adjacent
    simp only [List.length_singleton]
    omega
  plb _ _ _ _ _ := nofun
  crc _ _ h := h
  encodeFails _ h := h
  encodes _ k id flags csr _ _ hl h := payloadVouched_writeBytes h <| by
    have := buildFrame_length_le k id flags csr hl
    simp only [Buffer.base]
    omega
  commitError _ _ _ := nofun
  commit s k _ hl _ := payloadVouched_commit s k hl
  clearRecord _ h := h
  setRecord _ _ _ h := h
  finish _ _ h := h

/-- Settles O52: what can change PLB, PL_LEN or a D_* register either clears PLVAL or is the commit, which sets it when
both checksums agree; the other writes are below PLB. -/
theorem stepKeepsPayloadVouched : Obligations.StepKeepsPayloadVouched :=
  fun _ _ hs h => payloadVouched_kept.step hs h

/-! ## TXB -/

/-- A write outside TXB leaves the transmit frame. -/
theorem txFrameBuilt_writeBytes {s : State} {b : Buffer} {a : Nat} {bytes : List Byte} (h : s.txFrameBuilt)
    (houtside : b.base + a + bytes.length ≤ Buffer.txb.base ∨ Buffer.txb.base + s.txLen.toNat ≤ b.base + a) :
    (s.writeBytes b a bytes).txFrameBuilt := by
  intro hne
  obtain ⟨k, id, flags, csr, payload, hk, hl, hread⟩ := h hne
  exact ⟨k, id, flags, csr, payload, hk, hl, (readBytes_writeBytes_outside houtside.symm).trans hread⟩

/-- A transmit frame ends inside TXB. -/
theorem txLen_le_of_txFrameBuilt {s : State} (h : s.txFrameBuilt) : s.txLen.toNat ≤ 268 := by
  by_cases h0 : s.txLen = 0
  · simp [h0]
  · obtain ⟨k, id, flags, csr, payload, -, hl, hread⟩ := h h0
    exact readBytes_length hread ▸ buildFrame_length_le k id flags csr hl

theorem txFrameBuilt_writePlb {s : State} (a : Nat) (bytes : List Byte) (h : s.txFrameBuilt) :
    (s.writeBytes .plb a bytes).txFrameBuilt :=
  txFrameBuilt_writeBytes h <| .inr <| by
    have := txLen_le_of_txFrameBuilt h
    simp only [Buffer.base]
    omega

theorem txFrameBuilt_encodes (s : State) {k : SyncWord} (id flags csr : Byte) {payload : List Byte}
    (hk : k.isResponse = false) (hl : payload.length ≤ 254) :
    ({ s.writeBytes .txb 0 (buildFrame k id flags csr payload) with
        txLen := BitVec.ofNat 16 (buildFrame k id flags csr payload).length } : State).txFrameBuilt := by
  intro _
  refine ⟨k, id, flags, csr, payload, hk, hl, ?_⟩
  have hlen := buildFrame_length_le k id flags csr hl
  have hfits : (BitVec.ofNat 16 (buildFrame k id flags csr payload).length).toNat
      = (buildFrame k id flags csr payload).length := Nat.mod_eq_of_lt (by omega)
  rw [hfits]
  exact readBytes_writeBytes s .txb 0 _

theorem txFrameBuilt_kept : Kept State.txFrameBuilt where
  reset h := absurd rfl h
  own _ _ _ _ _ h := h
  issue _ _ h := h
  operands _ _ _ _ _ _ _ h := h
  plLen _ _ h := h
  rxb s j v hj h := txFrameBuilt_writeBytes h <| .inl <| by
    have := buffers_adjacent
    simp only [List.length_singleton]
    omega
  plb _ j v _ h := txFrameBuilt_writePlb j [v] h
  crc _ _ h := h
  encodeFails _ _ h := absurd rfl h
  encodes s _ id flags csr _ hk hl _ := txFrameBuilt_encodes s id flags csr hk hl
  commitError _ _ h := h
  commit _ _ f _ h := txFrameBuilt_writePlb 0 f.payload h
  clearRecord _ h := h
  setRecord _ _ _ h := h
  finish _ _ h := h

/-- Settles O53: only ENCODE writes TX_LEN and TXB, and it writes a whole frame or no length. -/
theorem stepKeepsTxFrameBuilt : Obligations.StepKeepsTxFrameBuilt :=
  fun _ _ hs h => txFrameBuilt_kept.step hs h

/-- Settles O46: the reset state is where each of the invariants starts. -/
theorem resetMeetsInvariants : Obligations.ResetMeetsInvariants :=
  ⟨memoryCanonical_kept.reset, handshake_kept.reset, reservedZero_kept.reset, frameFlagsSound_kept.reset,
    recordSound_kept.reset, payloadVouched_kept.reset, txFrameBuilt_kept.reset⟩

end Sys2Proof.Proofs
end

section
/-! PROOFS. The round trips: the encoder and the decoder of each of the four formats undo each other, and DECODE of a
built frame gives its contents back. -/

open Sys2Proof Sys2Proof.Machine

namespace Sys2Proof.Proofs

/-! ## Command words (R103) -/

theorem cmdWord_fields (op : BitVec 4) (syncsel : BitVec 2) (schema : BitVec 4) :
    let w := cmdWord op syncsel schema
    w.extractLsb' 0 4 = op ∧ w.extractLsb' 4 2 = syncsel ∧ w.extractLsb' 6 2 = 0 ∧ w.extractLsb' 8 4 = schema
      ∧ w.extractLsb' 12 20 = 0 := by
  simp (disch := omega) only [cmdWord, BitVec.extractLsb'_or, extractLsb'_shiftLeft_below,
    extractLsb'_shiftLeft_above, extractLsb'_setWidth_above, extractLsb'_setWidth_self, Nat.sub_self, BitVec.or_zero,
    BitVec.zero_or, BitVec.ofNat_eq_ofNat, and_self]

/-- The fields of R24 cover the word. -/
theorem word_ext_fields {v w : Word} (hop : v.extractLsb' 0 4 = w.extractLsb' 0 4)
    (hsync : v.extractLsb' 4 2 = w.extractLsb' 4 2) (hres6 : v.extractLsb' 6 2 = w.extractLsb' 6 2)
    (hschema : v.extractLsb' 8 4 = w.extractLsb' 8 4) (hres12 : v.extractLsb' 12 20 = w.extractLsb' 12 20) : v = w := by
  simp only [← BitVec.toNat_inj, BitVec.extractLsb'_toNat] at *
  bv_omega

/-- A word without reserved bits is put together from its fields. -/
theorem cmdWord_of_fields {w : Word} (hres6 : w.extractLsb' 6 2 = 0) (hres12 : w.extractLsb' 12 20 = 0) :
    cmdWord (w.extractLsb' 0 4) (w.extractLsb' 4 2) (w.extractLsb' 8 4) = w := by
  obtain ⟨hop, hsync, h6, hschema, h12⟩ := cmdWord_fields (w.extractLsb' 0 4) (w.extractLsb' 4 2) (w.extractLsb' 8 4)
  exact word_ext_fields hop hsync (h6.trans hres6.symm) hschema (h12.trans hres12.symm)

/-- A word that uses only the fields of its opcode is decided by the opcode (R100, R104). -/
theorem decodeCmd_cmdWord {op : BitVec 4} {syncsel : BitVec 2} {schema : BitVec 4} (hsync : syncsel = 0 ∨ op = 3)
    (hschema : schema = 0 ∨ op = 5 ∨ op = 6) :
    decodeCmd (cmdWord op syncsel schema) =
      if op = 0 then .ok .nop
      else if op = 1 then .ok .crc8
      else if op = 2 then .ok .crc32
      else if op = 3 then .ok (.encode syncsel)
      else if op = 4 then .ok .decode
      else if op = 5 then .ok (.decodePayload schema)
      else if op = 6 then .ok (.decodeDispatch schema)
      else .error (.badCommand (cmdWord op syncsel schema)) := by
  obtain ⟨hop, hsel, h6, hsc, h12⟩ := cmdWord_fields op syncsel schema
  have reserved_zero : ¬ ((0 : BitVec 2) ≠ 0 ∨ (0 : BitVec 20) ≠ 0) := by decide
  have syncsel_used : ¬ (syncsel ≠ 0 ∧ op ≠ 3) := fun ⟨h0, h3⟩ => hsync.elim h0 h3
  have schema_used : ¬ (schema ≠ 0 ∧ op ≠ 5 ∧ op ≠ 6) := fun ⟨h0, h5, h6⟩ => hschema.elim h0 fun h => h.elim h5 h6
  rw [decodeCmd, hop, hsel, h6, hsc, h12, if_neg reserved_zero, if_neg syncsel_used, if_neg schema_used]

theorem decodeCmd_of_encode {i : Instr} {w : Word} (h : encode i = .cmd w) : decodeCmd w = .ok i := by
  cases i <;> cases h
  case encode sel => exact decodeCmd_cmdWord (.inr rfl) (.inl rfl)
  case decodePayload sel => exact decodeCmd_cmdWord (.inl rfl) (.inr (.inl rfl))
  case decodeDispatch sel => exact decodeCmd_cmdWord (.inl rfl) (.inr (.inr rfl))
  all_goals exact decodeCmd_cmdWord (.inl rfl) (.inl rfl)

/-- Each word that R104 does not refuse is the code of a command. -/
theorem exists_encode_of_not_illegalWord {w : Word} (h : ¬ IllegalWord w) : ∃ i, encode i = .cmd w := by
  simp only [IllegalWord, not_or, not_and, Classical.not_not, Nat.not_le] at h
  obtain ⟨hop, hres6, hres12, hsync, hschema⟩ := h
  rw [← cmdWord_of_fields hres6 hres12]
  generalize w.extractLsb' 0 4 = op at *
  generalize w.extractLsb' 4 2 = syncsel at *
  generalize w.extractLsb' 8 4 = schema at *
  have unused_sync : op.toNat ≠ 3 → syncsel = 0 := fun h3 => Classical.byContradiction fun hne => h3 (hsync hne)
  have unused_schema : op.toNat ≠ 5 → op.toNat ≠ 6 → schema = 0 := fun h5 h6 =>
    Classical.byContradiction fun hne => h6 (hschema hne h5)
  rcases opcode_cases hop with rfl | rfl | rfl | rfl | rfl | rfl | rfl
  · exact ⟨.nop, by rw [unused_sync (by decide), unused_schema (by decide) (by decide)]; rfl⟩
  · exact ⟨.crc8, by rw [unused_sync (by decide), unused_schema (by decide) (by decide)]; rfl⟩
  · exact ⟨.crc32, by rw [unused_sync (by decide), unused_schema (by decide) (by decide)]; rfl⟩
  · exact ⟨.encode syncsel, by rw [unused_schema (by decide) (by decide)]; rfl⟩
  · exact ⟨.decode, by rw [unused_sync (by decide), unused_schema (by decide) (by decide)]; rfl⟩
  · exact ⟨.decodePayload schema, by rw [unused_sync (by decide)]; rfl⟩
  · exact ⟨.decodeDispatch schema, by rw [unused_sync (by decide)]; rfl⟩

theorem encode_of_decodeCmd {w : Word} {i : Instr} (h : decodeCmd w = .ok i) : encode i = .cmd w := by
  have legal : ¬ IllegalWord w := fun hbad => nomatch h.symm.trans (decodeCmd_of_illegalWord hbad)
  obtain ⟨j, hj⟩ := exists_encode_of_not_illegalWord legal
  cases h.symm.trans (decodeCmd_of_encode hj)
  exact hj

/-- The operands of a command are well-formed at every value. -/
theorem wf_of_encode_cmd {i : Instr} {w : Word} (h : encode i = .cmd w) : i.wf = true := by
  cases i <;> cases h <;> rfl

/-! ## csrAddress bytes and schema selectors (R102, R163) -/

theorem encode_ofCsr (b : Byte) : encode (Instr.ofCsr b) = .csr b := by
  revert b
  decide

theorem wf_ofCsr (b : Byte) : (Instr.ofCsr b).wf = true := by
  revert b
  decide

/-- A csr row with an address of its class is that address's row. -/
theorem ofCsr_of_encode {i : Instr} {b : Byte} (hwf : i.wf = true) (h : encode i = .csr b) : Instr.ofCsr b = i := by
  cases i <;> cases h
  case deviceReg =>
    have hlow : b.toNat < 0xF0 := of_decide_eq_true hwf
    simp [Instr.ofCsr, CsrClass.ofByte, hlow]
  case reservedF =>
    revert b
    decide
  all_goals rfl

theorem encode_ofSchema {k : BitVec 4} {sc : Schema} (h : Schema.ofSel k = some sc) :
    encode (Instr.ofSchema sc) = .schema k := by
  revert k
  cases sc <;> decide

/-! ## Little-endian bytes of a value -/

theorem leValue_cons_toNat (b : Byte) {v : Word} (h : v.toNat < 2 ^ 24) :
    (b.setWidth 32 ||| (v <<< 8)).toNat = b.toNat + 256 * v.toNat := by
  have hb := b.isLt
  rw [BitVec.toNat_or, BitVec.toNat_shiftLeft, BitVec.toNat_setWidth_of_le (by decide), Nat.shiftLeft_eq,
    Nat.mod_eq_of_lt (by omega), Nat.or_comm, ← Nat.shiftLeft_eq, ← Nat.shiftLeft_add_eq_or_of_lt hb, Nat.shiftLeft_eq]
  omega

/-- A value read from n bytes fits in n bytes, and storing it in n bytes gives them back. -/
theorem leBytes_leValue {bytes : List Byte} (h : bytes.length ≤ 4) :
    (leValue bytes).toNat < 2 ^ (8 * bytes.length) ∧ leBytes bytes.length (leValue bytes) = bytes := by
  induction bytes with
  | nil => exact ⟨by decide, rfl⟩
  | cons b bs ih =>
    rw [List.length_cons] at h
    obtain ⟨hlt, hback⟩ := ih (by omega)
    have hlt24 : (leValue bs).toNat < 2 ^ 24 :=
      Nat.lt_of_lt_of_le hlt (Nat.pow_le_pow_right (by decide) (by omega))
    have hcons := leValue_cons_toNat b hlt24
    have hb := b.isLt
    have hshift : (leValue (b :: bs)) >>> 8 = leValue bs := BitVec.eq_of_toNat_eq <| by
      rw [BitVec.toNat_ushiftRight, leValue, hcons, Nat.shiftRight_eq_div_pow]
      omega
    have hlow : (leValue (b :: bs)).setWidth 8 = b := BitVec.eq_of_toNat_eq <| by
      rw [BitVec.toNat_setWidth, leValue, hcons]
      omega
    refine ⟨?_, ?_⟩
    · rw [leValue, hcons, List.length_cons, Nat.mul_succ, Nat.pow_add]
      omega
    · rw [List.length_cons, leBytes, hshift, hlow, hback]

/-! ## The stages of the frame decoder (R142 to R146) -/

theorem ofValue_value (k : SyncWord) : SyncWord.ofValue k.value = some k := by
  cases k <;> decide

theorem ofValue_eq_some {v : Half} {k : SyncWord} (h : SyncWord.ofValue v = some k) : v = k.value := by
  unfold SyncWord.ofValue at h
  repeat' split at h
  all_goals cases h
  all_goals assumption

theorem ofValue_eq_none {v : Half} (h : ∀ k : SyncWord, v ≠ k.value) : SyncWord.ofValue v = none :=
  Option.eq_none_iff_forall_ne_some.mpr fun k hk => h k (ofValue_eq_some hk)

/-- Two bytes read as a word are a half-word. -/
theorem leValue_eq_of_setWidth {bytes : List Byte} {v : Half} (hl : bytes.length ≤ 2)
    (h : (leValue bytes).setWidth 16 = v) : leValue bytes = v.setWidth 32 := by
  have hlt : (leValue bytes).toNat < 2 ^ 16 := Nat.lt_of_lt_of_le (leBytes_leValue (by omega)).1
    (Nat.pow_le_pow_right (by decide) (by omega))
  subst h
  refine BitVec.eq_of_toNat_eq ?_
  rw [BitVec.toNat_setWidth_of_le (by decide), BitVec.toNat_setWidth, Nat.mod_eq_of_lt hlt]

theorem setWidth_value (k : SyncWord) : (k.value.setWidth 32 : Word).setWidth 16 = k.value := by
  cases k <;> decide

/-- The frame of sync word k whose fields stand at their offsets in the bytes (R80). -/
def frameAt (k : SyncWord) (bytes : List Byte) : Frame :=
  let h := slice bytes 2 4
  let L := (h.getD 3 0).toNat
  { id := h.getD 0 0, flags := h.getD 1 0, csr := h.getD 2 0
    hcrc := leValue (slice bytes 6 k.width)
    payload := slice bytes (6 + k.width) L
    tcrc := leValue (slice bytes (6 + k.width + L) k.width) }

section Stages
variable {bytes : List Byte}

theorem decodeFrame_of_short (h : bytes.length < 2) : decodeFrame bytes = .error (.truncated none 2) := by
  rw [decodeFrame, decodeFrameFrom, if_pos h]

theorem decodeFrame_of_unknown (h : 2 ≤ bytes.length)
    (hk : SyncWord.ofValue ((leValue (slice bytes 0 2)).setWidth 16) = none) :
    decodeFrame bytes = .error (.unknownSync ((leValue (slice bytes 0 2)).setWidth 16)) := by
  rw [decodeFrame, decodeFrameFrom, if_neg (Nat.not_lt.mpr h)]
  simp only [bind, Except.bind, hk]

/-- The stages after the sync word. -/
theorem decodeFrame_of_sync {k : SyncWord} (h : 2 ≤ bytes.length)
    (hk : SyncWord.ofValue ((leValue (slice bytes 0 2)).setWidth 16) = some k) :
    decodeFrame bytes =
      let len := (slice bytes 2 4).getD 3 0
      if bytes.length < 6 + 2 * k.width then .error (.truncated (some k) (6 + 2 * k.width))
      else if len = 0xFF then .error (.extendedLength k)
      else if bytes.length < 6 + k.width + len.toNat + k.width then
        .error (.truncated (some k) (6 + k.width + len.toNat + k.width))
      else .ok (k, frameAt k bytes) := by
  rw [decodeFrame, decodeFrameFrom, if_neg (Nat.not_lt.mpr h)]
  simp only [bind, Except.bind, hk, frameAfterSync, frameAfterHeader]
  by_cases hmin : bytes.length < 6 + 2 * k.width
  · rw [if_pos hmin, if_pos hmin]
  rw [if_neg hmin, if_neg hmin]
  by_cases hext : (slice bytes 2 4).getD 3 0 = 0xFF
  · rw [if_pos hext, if_pos hext]
  rw [if_neg hext, if_neg hext]
  by_cases hlen : bytes.length < 6 + k.width + ((slice bytes 2 4).getD 3 0).toNat + k.width
  · rw [if_pos hlen, if_pos hlen]
  · rw [if_neg hlen, if_neg hlen]
    rfl

end Stages

/-- Settles O11: the stages in their order, the fields of a whole frame at their offsets. -/
theorem decoderStagesInOrder : Obligations.DecoderStagesInOrder := by
  intro bytes
  refine ⟨decodeFrame_of_short, fun h2 hnone => decodeFrame_of_unknown h2 ?_, fun k h2 hk => ?_⟩
  · exact ofValue_eq_none fun k hk => hnone k (leValue_eq_of_setWidth (List.length_take_le ..) hk)
  have hsome : SyncWord.ofValue ((leValue (slice bytes 0 2)).setWidth 16) = some k := by
    rw [hk, setWidth_value, ofValue_value]
  have stages := decodeFrame_of_sync h2 hsome
  refine ⟨fun hmin => by rw [stages]; exact if_pos hmin, fun hmin id flags csr L hhdr => ?_⟩
  have hL : (slice bytes 2 4).getD 3 0 = L := by rw [hhdr]; rfl
  simp only [hL, if_neg (Nat.not_lt.mpr hmin)] at stages
  refine ⟨fun hext => ?_, fun hext hlen => ?_, fun hext hlen => ?_⟩
  · rw [stages, if_pos hext]
  · rw [stages, if_neg hext, if_pos hlen]
  · rw [stages, if_neg hext, if_neg (Nat.not_lt.mpr hlen), frameAt, hhdr]
    rfl

/-! ## Frames (R80) -/

theorem frame_wf_iff {k : SyncWord} {f : Frame} :
    f.wf k = true ↔ f.payload.length ≤ 254 ∧ f.hcrc.toNat < 2 ^ (8 * k.width) ∧ f.tcrc.toNat < 2 ^ (8 * k.width) := by
  have hbound : k.crcBound = 2 ^ (8 * k.width) := by cases k <;> rfl
  rw [Frame.wf, hbound, Bool.and_eq_true, Bool.and_eq_true, decide_eq_true_iff, decide_eq_true_iff,
    decide_eq_true_iff, and_assoc]

theorem slice_append_of_le {xs : List Byte} (ys : List Byte) {a n : Nat} (h : a + n ≤ xs.length) :
    slice (xs ++ ys) a n = slice xs a n := by
  rw [slice, slice, List.drop_append_of_le_length (by omega), List.take_append_of_le_length (by simp; omega)]

theorem decodeFrame_encodeFrame_append {k : SyncWord} {f : Frame} (surplus : List Byte) (hf : f.wf k = true) :
    decodeFrame (encodeFrame k f ++ surplus) = .ok (k, f) := by
  obtain ⟨hpayload, hhcrc, htcrc⟩ := frame_wf_iff.mp hf
  have hlen : (encodeFrame k f ++ surplus).length = 6 + k.width + f.payload.length + k.width + surplus.length := by
    rw [List.length_append, Laws.encodeFrame_length]
  have hcut : ∀ a n, a + n ≤ 6 + k.width + f.payload.length + k.width →
      slice (encodeFrame k f ++ surplus) a n = slice (encodeFrame k f) a n := fun a n h =>
    slice_append_of_le surplus (Laws.encodeFrame_length k f ▸ h)
  have hhdr : slice (encodeFrame k f ++ surplus) 2 4 = [f.id, f.flags, f.csr, BitVec.ofNat 8 f.payload.length] :=
    hcut 2 4 (by omega)
  have hL : (BitVec.ofNat 8 f.payload.length).toNat = f.payload.length := Nat.mod_eq_of_lt (by omega)
  have hext : BitVec.ofNat 8 f.payload.length ≠ 0xFF := BitVec.toNat_ne.mpr (by rw [hL]; show _ ≠ 255; omega)
  obtain ⟨-, -, stages⟩ := decoderStagesInOrder (encodeFrame k f ++ surplus)
  obtain ⟨-, stages⟩ := stages k (by omega) (by rw [hcut 0 2 (by omega), leValue_slice_encodeFrame_sync])
  obtain ⟨-, -, whole⟩ := stages (by omega) _ _ _ _ hhdr
  rw [whole hext (by omega), hL, hcut 6 k.width (by omega), hcut _ f.payload.length (by omega),
    hcut _ k.width (by omega), slice_encodeFrame_hcrc, slice_encodeFrame_payload, slice_encodeFrame_tcrc,
    leValue_leBytes hhcrc, leValue_leBytes htcrc]

theorem slice_append_drop (bytes : List Byte) (a n : Nat) : slice bytes a n ++ bytes.drop (a + n) = bytes.drop a := by
  rw [slice, ← List.drop_drop, List.take_append_drop]

theorem slice_length {bytes : List Byte} {a n : Nat} (h : a + n ≤ bytes.length) : (slice bytes a n).length = n := by
  rw [slice, List.length_take, List.length_drop]
  omega

theorem eq_of_length_four {l : List Byte} (h : l.length = 4) : l = [l.getD 0 0, l.getD 1 0, l.getD 2 0, l.getD 3 0] :=
  match l, h with
  | [_, _, _, _], _ => rfl

/-- Bytes 0 to 5 are the sync word and the four header fields (R80). -/
theorem headerBytes_eq (k : SyncWord) (id flags csr : Byte) (L : Nat) :
    headerBytes k id flags csr L = leBytes 2 (k.value.setWidth 32) ++ [id, flags, csr, BitVec.ofNat 8 L] := by
  cases k <;> rfl

/-- A buffer that is long enough for the frame at its offsets is that frame and surplus bytes. -/
theorem encodeFrame_frameAt_append {k : SyncWord} {bytes : List Byte} {L : Nat}
    (hsync : leValue (slice bytes 0 2) = k.value.setWidth 32) (hL : ((slice bytes 2 4).getD 3 0).toNat = L)
    (hlen : 6 + k.width + L + k.width ≤ bytes.length) :
    encodeFrame k (frameAt k bytes) ++ bytes.drop (6 + k.width + L + k.width) = bytes := by
  have hw := width_pos k
  have stored : ∀ a n, n ≤ 4 → a + n ≤ bytes.length → leBytes n (leValue (slice bytes a n)) = slice bytes a n :=
    fun a n hn h => by
      have hl := slice_length h
      have hback := (leBytes_leValue (bytes := slice bytes a n) (by omega)).2
      rwa [hl] at hback
  have hpayload : (slice bytes (6 + k.width) L).length = L := slice_length (by omega)
  have hlast : BitVec.ofNat 8 L = (slice bytes 2 4).getD 3 0 := by rw [← hL, BitVec.ofNat_toNat, BitVec.setWidth_eq]
  rw [encodeFrame, frameAt, hL, hpayload, headerBytes_eq, ← hsync, hlast, ← eq_of_length_four (slice_length (by omega)),
    stored 0 2 (by omega) (by omega), stored 6 k.width (by omega) (by omega), stored _ k.width (by omega) (by omega)]
  simp only [List.append_assoc, slice_append_drop]
  exact (congrArg (slice bytes 0 2 ++ ·) (slice_append_drop bytes 2 4)).trans (slice_append_drop bytes 0 2)

/-- What the frame decoder answers: the well-formed frame whose bytes stand at the front of the buffer (R146). -/
theorem decodeFrame_eq_ok_iff {bytes : List Byte} {k : SyncWord} {f : Frame} :
    decodeFrame bytes = .ok (k, f) ↔ f.wf k = true ∧ ∃ surplus, bytes = encodeFrame k f ++ surplus := by
  refine ⟨fun h => ?_, fun ⟨hf, surplus, hbytes⟩ => hbytes ▸ decodeFrame_encodeFrame_append surplus hf⟩
  by_cases h2 : bytes.length < 2
  · cases h.symm.trans (decodeFrame_of_short h2)
  have h2 : 2 ≤ bytes.length := Nat.not_lt.mp h2
  cases hk : SyncWord.ofValue ((leValue (slice bytes 0 2)).setWidth 16) with
  | none => cases h.symm.trans (decodeFrame_of_unknown h2 hk)
  | some k' =>
    have stages := h.symm.trans (decodeFrame_of_sync h2 hk)
    dsimp only at stages
    split at stages
    · cases stages
    split at stages
    · cases stages
    rename_i hext
    split at stages
    · cases stages
    rename_i hlen
    cases stages
    have hw := width_pos k
    have hsync := leValue_eq_of_setWidth (List.length_take_le ..) (ofValue_eq_some hk)
    have hlt := ((slice bytes 2 4).getD 3 0).isLt
    have hext : ((slice bytes 2 4).getD 3 0).toNat ≠ 255 := BitVec.toNat_ne.mp hext
    have stored : ∀ a, a + k.width ≤ bytes.length → (leValue (slice bytes a k.width)).toNat < 2 ^ (8 * k.width) :=
      fun a ha => by
        have hl := slice_length ha
        have hfits := (leBytes_leValue (bytes := slice bytes a k.width) (by omega)).1
        rwa [hl] at hfits
    refine ⟨frame_wf_iff.mpr ⟨?_, stored 6 (by omega), stored _ (by omega)⟩, _,
      (encodeFrame_frameAt_append hsync rfl (Nat.not_lt.mp hlen)).symm⟩
    rw [frameAt, slice_length (by omega)]
    omega

/-! ## All formats -/

theorem encode_ofFrame (k : SyncWord) (f : Frame) : encode (Instr.ofFrame k f) = .frame (encodeFrame k f) := by
  cases k <;> rfl

theorem wf_ofFrame (k : SyncWord) (f : Frame) : (Instr.ofFrame k f).wf = f.wf k := by
  cases k <;> rfl

theorem decode_encodeFrame {k : SyncWord} {f : Frame} (hf : f.wf k = true) :
    decode (.frame (encodeFrame k f)) = .ok (Instr.ofFrame k f) := by
  have h := decodeFrame_encodeFrame_append [] hf
  rw [List.append_nil] at h
  rw [decode, h]

theorem decode_frame_eq_ok {bytes : List Byte} {i : Instr} (h : decode (.frame bytes) = .ok i) :
    ∃ k f, decodeFrame bytes = .ok (k, f) ∧ i = Instr.ofFrame k f := by
  rw [decode] at h
  split at h
  · rename_i k f hd
    cases h
    exact ⟨k, f, hd, rfl⟩
  · cases h

theorem decode_schema_eq_ok {k : BitVec 4} {i : Instr} (h : decode (.schema k) = .ok i) :
    ∃ sc, Schema.ofSel k = some sc ∧ i = Instr.ofSchema sc := by
  rw [decode] at h
  split at h
  · rename_i sc hsc
    cases h
    exact ⟨sc, hsc, rfl⟩
  · cases h

/-- Settles O7: format by format, the decoder undoes the encoder on a well-formed instruction. -/
theorem decodeOfEncodeIsTheInstruction : Obligations.DecodeOfEncodeIsTheInstruction := by
  intro i hwf
  cases hcode : encode i with
  | cmd w => exact decodeCmd_of_encode hcode
  | csr b => exact congrArg Except.ok (ofCsr_of_encode hwf hcode)
  | schema k => cases i <;> cases hcode <;> rfl
  | frame bytes =>
    cases i <;> cases hcode
    · exact decode_encodeFrame (k := .requestCrc8) hwf
    · exact decode_encodeFrame (k := .requestCrc32) hwf
    · exact decode_encodeFrame (k := .responseCrc8) hwf
    · exact decode_encodeFrame (k := .responseCrc32) hwf

/-- Settles O8: format by format, what the decoder answers encodes to what it was given; only a receive buffer can hold
more than the code. -/
theorem decodedCodeIsTheEncoding : Obligations.DecodedCodeIsTheEncoding := by
  intro c i h
  cases c with
  | cmd w =>
    have hcode := encode_of_decodeCmd h
    exact ⟨wf_of_encode_cmd hcode, .inl hcode⟩
  | csr b =>
    cases h
    exact ⟨wf_ofCsr b, .inl (encode_ofCsr b)⟩
  | schema k =>
    obtain ⟨sc, hsc, rfl⟩ := decode_schema_eq_ok h
    exact ⟨by cases sc <;> rfl, .inl (encode_ofSchema hsc)⟩
  | frame bytes =>
    obtain ⟨k, f, hd, rfl⟩ := decode_frame_eq_ok h
    obtain ⟨hf, surplus, rfl⟩ := decodeFrame_eq_ok_iff.mp hd
    exact ⟨(wf_ofFrame k f).trans hf, .inr ⟨_, surplus, encode_ofFrame k f, rfl⟩⟩

/-- Settles O9: the encoder evaluates on the commands and the frames written out, and the decoder undoes it; the csr bytes
and the selectors are decided directly. -/
theorem specWordsDecode : Obligations.SpecWordsDecode := by
  have commands : ∀ p ∈ legalCommandWords, encode p.2 = .cmd p.1 := by decide
  exact ⟨fun p hp => ⟨decodeCmd_of_encode (commands p hp), commands p hp⟩,
    decode_encodeFrame (k := .requestCrc8) (f := ⟨0x01, 0x02, 0x03, 0x55, [], 0x66⟩) (by decide),
    decode_encodeFrame (k := .requestCrc32) (f := ⟨0x01, 0x02, 0x03, 0x44332211, [0xAB], 0x88776655⟩) (by decide),
    decode_encodeFrame (k := .responseCrc8) (f := ⟨0x01, 0x02, 0x03, 0x55, [], 0x66⟩) (by decide), rfl, rfl, rfl, rfl, rfl, rfl, rfl, rfl⟩

/-! ## DECODE of a built frame -/

theorem frameWith_wf (k : SyncWord) (id flags csr : Byte) {payload : List Byte} (h : payload.length ≤ 254) :
    (frameWith Config.crc8Fn k id flags csr payload).wf k = true :=
  frame_wf_iff.mpr ⟨h, crcW_toNat_lt k _, crcW_toNat_lt k _⟩

/-- Settles O21: the decoder finds the contents BuildFrame was given, DECODE commits them, and their checksums are the
recomputed ones. -/
theorem builtFrameDecodesBack : Obligations.BuiltFrameDecodesBack := by
  intro s k id flags csr payload surplus hL hpresents
  let f : Frame := frameWith Config.crc8Fn k id flags csr payload
  have hdecode : decodeFrame (buildFrame k id flags csr payload ++ surplus) = .ok (k, f) :=
    decodeFrame_encodeFrame_append surplus (frameWith_wf k id flags csr hL)
  have hrun := exec_decode_of_fetchFrame_ok (fetchFrame_of_decodeFrame_ok hpresents hdecode)
  have committed := commitsFrame_commit_finish s k f .ok hL
  have hvalid : ∀ w : Word, (w == w) = true := fun w => beq_self_eq_true w
  refine ⟨_, hrun, completed_finish _ .ok, rfl, hvalid _, hvalid _, ?_, committed.sync.1, rfl, committed.payload.1,
    committed.payload.2, ?_⟩
  · exact Bool.and_eq_true_iff.mpr ⟨hvalid _, hvalid _⟩
  · obtain ⟨-, hsurplus⟩ := committed.length
    obtain ⟨-, hrx, -⟩ := hpresents
    rw [List.length_append, buildFrame_length] at hrx
    have hpayload : f.payload.length = payload.length := rfl
    omega

end Sys2Proof.Proofs
end

section
/-! PROOFS. The CODEC's turn, and what DECODE and the rows that are data of DECODE answer: the errors (R149), the reads
(R153), and what the answer depends on (R44, R151). -/

open Sys2Proof Sys2Proof.Machine

namespace Sys2Proof.Proofs

/-! ## The CODEC's turn (R214) -/

section Turn
variable {s : State}

theorem step_of_decodeCmd_ok {w : Word} {i : Instr} (ht : s.codecTurn) (hp : s.pending = some w)
    (hd : decodeCmd w = .ok i) : step s = exec i s.advance :=
  (step_codecTurn ht).trans (codecStep_command (s := s.advance) hp hd)

theorem codecStep_of_not_pending (hp : s.pending = none) : codecStep s = .next s := by
  rw [codecStep, hp]

end Turn

/-- Settles O2: the CODEC's turn runs the pending command. -/
theorem stepRunsPendingCommand : Obligations.StepRunsPendingCommand :=
  fun _ _ _ ht hp hd => step_of_decodeCmd_ok ht hp hd

/-- Settles O5: with nothing pending the turn leaves the state as it is. -/
theorem idleCodecTurnDoesNothing : Obligations.IdleCodecTurnDoesNothing :=
  fun s ht hp => (step_codecTurn ht).trans (codecStep_of_not_pending (s := s.advance) hp)

/-! ## What the fetch depends on (R153) -/

section Fetch
variable {s u : State}

theorem fetchFrame_of_range (h : Config.rxbSize < s.rxLen.toNat) : fetchFrame s = .ok (.error .range) := by
  rw [fetchFrame, if_pos h]

/-- Bytes that a receive buffer may hold: 0 where none is written. -/
theorem exists_rxMayHold (h : s.rxLen.toNat ≤ Config.rxbSize) : ∃ bytes, s.rxMayHold bytes := by
  refine ⟨(List.range s.rxLen.toNat).map fun i => (s.byte .rxb i).getD 0, h, by simp, fun i v hi hv => ?_⟩
  rw [List.length_map, List.length_range] at hi
  simp [hi, hv]

theorem fetchFrame_of_firstUnwritten {bytes : List Byte} {i : Nat} (h : s.rxMayHold bytes)
    (hi : s.firstUnwritten bytes = some i) : fetchFrame s = .error (.unwrittenRead .rxb i) := by
  have ⟨hle, hl, _⟩ := h
  rw [fetchFrame_eq hle hl h.agrees, hi]

theorem fetchFrame_of_reads_written {bytes : List Byte} (h : s.rxMayHold bytes)
    (hnone : s.firstUnwritten bytes = none) : fetchFrame s = .ok (fetched (decodeFrame bytes)) := by
  have ⟨hle, hl, _⟩ := h
  rw [fetchFrame_eq hle hl h.agrees, hnone]

/-- The fetch sees RX_LEN and RXB[0..RX_LEN) only. -/
theorem fetchFrame_congr (hn : u.rxLen = s.rxLen)
    (hb : ∀ i, i < s.rxLen.toNat → u.byte .rxb i = s.byte .rxb i) : fetchFrame u = fetchFrame s := by
  by_cases hr : Config.rxbSize < s.rxLen.toNat
  · rw [fetchFrame_of_range hr, fetchFrame_of_range (hn ▸ hr)]
  obtain ⟨bytes, hs⟩ := exists_rxMayHold (Nat.not_lt.mp hr)
  have ⟨hle, hl, hv⟩ := hs
  have hu : u.rxMayHold bytes := ⟨hn ▸ hle, hn ▸ hl, fun i v hi h => hv i v hi ((hb i (hl ▸ hi)).symm.trans h)⟩
  have hfirst : u.firstUnwritten bytes = s.firstUnwritten bytes := by
    rw [State.firstUnwritten, State.firstUnwritten, ← List.head?_filter, ← List.head?_filter]
    refine congrArg List.head? (List.filter_congr fun i hi => ?_)
    rw [hb i (hl ▸ decodeReads_lt hi)]
  cases hi : s.firstUnwritten bytes with
  | some i => rw [fetchFrame_of_firstUnwritten hs hi, fetchFrame_of_firstUnwritten hu (hfirst.trans hi)]
  | none => rw [fetchFrame_of_reads_written hs hi, fetchFrame_of_reads_written hu (hfirst.trans hi)]

/-- A fault of the fetch is an unwritten byte of RXB[0..512). -/
theorem fetchFrame_eq_fault {f : Fault} (h : fetchFrame s = .error f) :
    ∃ i, f = .unwrittenRead .rxb i ∧ s.byte .rxb i = none ∧ i < Config.rxbSize := by
  by_cases hr : Config.rxbSize < s.rxLen.toNat
  · cases (fetchFrame_of_range hr).symm.trans h
  obtain ⟨bytes, hs⟩ := exists_rxMayHold (Nat.not_lt.mp hr)
  cases hi : s.firstUnwritten bytes with
  | none => cases (fetchFrame_of_reads_written hs hi).symm.trans h
  | some i =>
    cases (fetchFrame_of_firstUnwritten hs hi).symm.trans h
    obtain ⟨hle, hl, -⟩ := hs
    have hlt := decodeReads_lt (List.mem_of_find?_eq_some hi)
    have unwritten : (s.byte .rxb i).isNone = true := List.find?_some (p := fun i => (s.byte .rxb i).isNone) hi
    exact ⟨i, rfl, Option.isNone_iff_eq_none.mp unwritten, by omega⟩

end Fetch

/-! ## The errors of a decode (R149) -/

section DecodeFails
variable {s : State}

theorem dSyncWord_eq_dSyncTable (k : SyncWord) : dSyncWord k = dSyncTable k := by
  cases k <;> rfl

theorem dFlenWord_zero (flen : Nat) : dFlenWord flen 0 = BitVec.ofNat 32 flen := by
  simp [dFlenWord]

theorem failsDecode_commitError (s : State) {e : DecodeError} {sync : Word} {flen : Nat} (hsync : e.sync = sync)
    (hflen : e.flen = BitVec.ofNat 32 flen) :
    ∃ t, decodeFails e s = .next t ∧ FailsDecode s t e.errCode sync flen := by
  refine ⟨_, rfl, ?_⟩
  rw [FailsDecode, ← hsync, ← hflen]
  rfl

variable (s)

theorem decodeFails_range : ∃ t, decodeFails .range s = .next t ∧ FailsDecode s t .range 0 0 :=
  failsDecode_commitError s rfl rfl

theorem decodeFails_truncated_unsynced (n : Nat) :
    ∃ t, decodeFails (.frame (.truncated none n)) s = .next t ∧ FailsDecode s t .truncatedFrame 0 n :=
  failsDecode_commitError s rfl (dFlenWord_zero n)

theorem decodeFails_truncated (k : SyncWord) (n : Nat) :
    ∃ t, decodeFails (.frame (.truncated (some k) n)) s = .next t ∧ FailsDecode s t .truncatedFrame (dSyncTable k) n :=
  failsDecode_commitError s (dSyncWord_eq_dSyncTable k) (dFlenWord_zero n)

theorem decodeFails_unknownSync (v : Half) :
    ∃ t, decodeFails (.frame (.unknownSync v)) s = .next t ∧ FailsDecode s t .unknownSyncWord (v.setWidth 32) 0 :=
  failsDecode_commitError s rfl rfl

theorem decodeFails_extendedLength (k : SyncWord) :
    ∃ t, decodeFails (.frame (.extendedLength k)) s = .next t
      ∧ FailsDecode s t .unsupportedExtendedLength (dSyncTable k) 0 :=
  failsDecode_commitError s (dSyncWord_eq_dSyncTable k) rfl

end DecodeFails

/-! ## DECODE -/

section Decode
variable {s : State}

theorem exec_decode_of_fetchFrame_error {e : DecodeError} (h : fetchFrame s = .ok (.error e)) :
    exec .decode s = decodeFails e s := by
  rw [exec_decode, execDecode, withFrame_of_fetchFrame_error h]

theorem exec_decode_of_fetchFrame_fault {f : Fault} (h : fetchFrame s = .error f) : exec .decode s = .fault f := by
  rw [exec_decode, execDecode, withFrame, h, withRead_error]

theorem exec_decode_of_range (h : 512 < s.rxLen.toNat) : exec .decode s = decodeFails .range s :=
  exec_decode_of_fetchFrame_error (fetchFrame_of_range h)

theorem fetchFrame_of_decodeFrame_error {bytes : List Byte} {r : FrameReject} (h : s.rxPresents bytes)
    (hd : decodeFrame bytes = .error r) : fetchFrame s = .ok (.error (.frame r)) := by
  rw [fetchFrame_of_presents h, hd, fetched]

/-- A fetch that does not fault lets DECODE complete. -/
theorem exec_decode_advances {r : Except DecodeError (SyncWord × Frame)} (h : fetchFrame s = .ok r) :
    ∃ t, exec .decode s = .next t :=
  match r, h with
  | .error _, h => ⟨_, exec_decode_of_fetchFrame_error h⟩
  | .ok (_, _), h => ⟨_, exec_decode_of_fetchFrame_ok h⟩

end Decode

/-- Settles O18: the fetch reports the pure decoder's error, and the error commit writes what R149 lists. -/
theorem decodeErrorCommits : Obligations.DecodeErrorCommits := by
  intro s
  refine ⟨fun hr => ?_, fun bytes hp => ?_⟩
  · rw [exec_decode_of_range hr]
    exact decodeFails_range s
  have fails : ∀ {r}, decodeFrame bytes = .error r → exec .decode s = decodeFails (.frame r) s := fun hd =>
    exec_decode_of_fetchFrame_error (fetchFrame_of_decodeFrame_error hp hd)
  refine ⟨fun n hd => ?_, fun k n hd => ?_, fun v hd => ?_, fun k hd => ?_⟩
  · rw [fails hd]
    exact decodeFails_truncated_unsynced s n
  · rw [fails hd]
    exact decodeFails_truncated s k n
  · rw [fails hd]
    exact decodeFails_unknownSync s v
  · rw [fails hd]
    exact decodeFails_extendedLength s k

/-- Settles O54: the fetch decides the fault, at the first unwritten byte of those that R153 lists. -/
theorem decodeFaultsOnlyOnReadBytes : Obligations.DecodeFaultsOnlyOnReadBytes := by
  intro s
  exact ⟨fun bytes i hm hi => exec_decode_of_fetchFrame_fault (fetchFrame_of_firstUnwritten hm hi),
    fun bytes hm hnone => exec_decode_advances (fetchFrame_of_reads_written hm hnone),
    fun hr => ⟨_, exec_decode_of_range hr⟩⟩

/-! ## DECODE again, and DECODE elsewhere (R44, R151) -/

/-- The commit writes PLB, so a fetch after it finds the same frame. -/
theorem fetchFrame_commit_finish (s : State) (k : SyncWord) (f : Frame) (e : ErrCode)
    (h : s.rxLen.toNat ≤ Buffer.rxb.size) : fetchFrame ((s.commit k f).finish e) = fetchFrame s :=
  fetchFrame_congr (s := s) rfl fun i hi => byte_writeBytes_outside s .plb .rxb 0 i f.payload <| .inl <| by
    have := buffers_adjacent
    omega

/-- A commit overwrites all that a commit of the same frame wrote. -/
theorem commit_finish_commit_finish (s : State) (k : SyncWord) (f : Frame) (e : ErrCode) :
    (((s.commit k f).finish e).commit k f).finish e = (s.commit k f).finish e := by
  simp only [State.commit, State.withFrameFlags, State.finish, State.writeBytes, Memory.setMany_setMany_same]

/-- Settles O19: DECODE leaves RX_LEN and RXB, so the second run fetches what the first did and writes it again. -/
theorem decodeIsIdempotent : Obligations.DecodeIsIdempotent := by
  intro s t h
  rcases execDecode_eq_next h with ⟨e, hf, rfl⟩ | ⟨k, f, hf, rfl⟩
  · exact exec_decode_of_fetchFrame_error (s := (s.commitError e).finish e.errCode) hf
  · obtain ⟨hn, -, -⟩ := fetchFrame_bounds hf
    have again : fetchFrame ((s.commit k f).finish .ok) = .ok (.ok (k, f)) :=
      (fetchFrame_commit_finish s k f .ok hn).trans hf
    exact (exec_decode_of_fetchFrame_ok again).trans (congrArg _ (commit_finish_commit_finish s k f .ok))

/-- Settles O20: the two fetches agree, and every register a decode writes comes from the fetch and RX_LEN. -/
theorem decodeDependsOnlyOnRxb : Obligations.DecodeDependsOnlyOnRxb := by
  intro s u hn hb
  have hfetch : fetchFrame u = fetchFrame s := fetchFrame_congr hn.symm fun i hi => (hb i hi).symm
  refine ⟨fun f hf => exec_decode_of_fetchFrame_fault (hfetch.trans (fetchFrame_of_exec_decode_fault hf)), ?_⟩
  intro t v ht hv
  rcases execDecode_eq_next ht with ⟨e, hf, rfl⟩ | ⟨k, f, hf, rfl⟩
  · cases (exec_decode_of_fetchFrame_error (hfetch.trans hf)).symm.trans hv
    exact ⟨rfl, rfl, rfl, rfl, rfl, rfl, rfl, rfl, rfl, rfl, rfl, rfl, rfl, fun hok => absurd hok (errCode_ne_ok e)⟩
  · cases (exec_decode_of_fetchFrame_ok (hfetch.trans hf)).symm.trans hv
    obtain ⟨-, hL, -⟩ := fetchFrame_bounds hf
    have hlen : dFlenWord (frameLength k f.payload.length) (s.rxLen.toNat - frameLength k f.payload.length)
        = dFlenWord (frameLength k f.payload.length) (u.rxLen.toNat - frameLength k f.payload.length) := by rw [hn]
    have plb : ∀ x : State, readBytes ((x.commit k f).finish .ok) .plb 0 (BitVec.ofNat 8 f.payload.length).toNat
        = .ok f.payload := fun x => by
      obtain ⟨hread, hpl⟩ := (commitsFrame_commit_finish x k f .ok hL).payload
      rwa [← hpl] at hread
    exact ⟨rfl, rfl, rfl, rfl, rfl, rfl, rfl, hlen, rfl, rfl, rfl, rfl, rfl, fun _ => ⟨rfl, (plb s).trans (plb u).symm⟩⟩

end Sys2Proof.Proofs
end

section
/-! PROOFS. The rows that are data of DECODE: the frame rows (R81), the csr rows (R163), and the error detection of
CRC-32 that a frame row's header rests on (R154). -/

open Sys2Proof Sys2Proof.Machine

namespace Sys2Proof.Proofs

/-! ## Frame rows -/

section FrameRows
variable {k : SyncWord} {f : Frame} {s : State}

theorem exec_ofFrame (k : SyncWord) (f : Frame) (s : State) : exec (Instr.ofFrame k f) s = acceptFrame k f s := by
  cases k <;> rfl

/-- A frame row is the instruction of its sync word. -/
theorem eq_ofFrame {i : Instr}
    (h : (k = .requestCrc8 ∧ i = .requestCrc8 f) ∨ (k = .requestCrc32 ∧ i = .requestCrc32 f)
      ∨ (k = .responseCrc8 ∧ i = .responseCrc8 f) ∨ (k = .responseCrc32 ∧ i = .responseCrc32 f)) :
    i = Instr.ofFrame k f := by
  rcases h with ⟨rfl, rfl⟩ | ⟨rfl, rfl⟩ | ⟨rfl, rfl⟩ | ⟨rfl, rfl⟩ <;> rfl

/-- A frame that passes all the checks of R141 to R146 is committed. -/
theorem acceptFrame_of_fits (hL : f.payload.length ≤ 254) (hfits : frameLength k f.payload.length ≤ s.rxLen.toNat)
    (hn : s.rxLen.toNat ≤ 512) : acceptFrame k f s = .next ((s.commit k f).finish .ok) := by
  have hlen : frameLength k f.payload.length = 6 + k.width + f.payload.length + k.width := rfl
  rw [acceptFrame, if_neg (Nat.not_lt.mpr hn), if_neg (by omega), if_neg (by omega), if_neg (by omega),
    if_neg (Nat.not_lt.mpr hfits), complete]

theorem exec_ofFrame_of_fits (hL : f.payload.length ≤ 254) (hfits : frameLength k f.payload.length ≤ s.rxLen.toNat)
    (hn : s.rxLen.toNat ≤ 512) : exec (Instr.ofFrame k f) s = .next ((s.commit k f).finish .ok) :=
  (exec_ofFrame k f s).trans (acceptFrame_of_fits hL hfits hn)

end FrameRows

/-- Settles O24: a frame that fits passes the checks, and the commit makes the writes of R148. -/
theorem frameRowsCommit : Obligations.FrameRowsCommit := by
  intro k i f s hi hL hfits hn
  obtain rfl := eq_ofFrame hi
  exact ⟨_, exec_ofFrame_of_fits hL hfits hn, commitsFrame_commit_finish s k f .ok hL,
    sameButDecode_commit_finish s k f .ok, completed_finish _ .ok⟩

/-- Settles O25: each range of RX_LEN and of the payload's length fails one check, after passing those before it. -/
theorem frameRowsReject : Obligations.FrameRowsReject := by
  intro k f s n flen
  have hw := width_pos k
  have hrxb : Config.rxbSize = 512 := rfl
  have hflen : frameLength k f.payload.length = flen := rfl
  have row : exec (Instr.ofFrame k f) s = acceptFrame k f s := exec_ofFrame k f s
  refine ⟨fun h512 => ?_, fun h2 => ?_, fun h2 hmin => ?_, fun hmin hn hext => ?_, fun hmin hlen hn hL => ?_⟩
  · rw [row, acceptFrame, if_pos h512]
    exact decodeFails_range s
  · rw [row, acceptFrame, if_neg (by omega), if_pos h2]
    exact decodeFails_truncated_unsynced s 2
  · rw [row, acceptFrame, if_neg (by omega), if_neg (by omega), if_pos hmin]
    exact decodeFails_truncated s k _
  · rw [row, acceptFrame, if_neg (by omega), if_neg (by omega), if_neg (by omega), if_pos hext]
    exact decodeFails_extendedLength s k
  · rw [row, acceptFrame, if_neg (by omega), if_neg (by omega), if_neg (by omega), if_neg (by omega), hflen,
      if_pos hlen]
    exact decodeFails_truncated s k _

/-- Settles O3: the frame in RXB is the row's frame, which fits because the stages accepted it; DECODE and the row
commit it alike. -/
theorem stepRunsFrameInRxb : Obligations.StepRunsFrameInRxb := by
  intro s w bytes i ht hp hw hpresents hd
  obtain ⟨k, f, hframe, rfl⟩ := decode_frame_eq_ok hd
  have hfetch := fetchFrame_of_decodeFrame_ok (s := s.advance) hpresents hframe
  obtain ⟨hn, hL, hfits⟩ := fetchFrame_bounds hfetch
  rw [step_of_decodeCmd_ok ht hp hw, exec_decode_of_fetchFrame_ok hfetch, exec_ofFrame_of_fits hL hfits hn]

/-! ## The csr rows -/

section CsrRows
variable {s : State} {csr : Byte}

/-- A csr row decodes with the csrAddress that is its code. -/
theorem exec_of_encode_csr {i : Instr} (h : encode i = .csr csr) (s : State) : exec i s = decodeWithCsr csr s := by
  cases i <;> cases h <;> rfl

theorem exec_ofCsr (csr : Byte) (s : State) : exec (Instr.ofCsr csr) s = decodeWithCsr csr s :=
  exec_of_encode_csr (encode_ofCsr csr) s

theorem decodeWithCsr_of_fetchFrame_ok {k : SyncWord} {f : Frame} (h : fetchFrame s = .ok (.ok (k, f))) :
    decodeWithCsr csr s = .next ((s.commit k { f with csr := csr }).finish .ok) := by
  rw [decodeWithCsr, withFrame_of_fetchFrame_ok h, complete]

theorem decodeWithCsr_of_fetchFrame_error {e : DecodeError} (h : fetchFrame s = .ok (.error e)) :
    decodeWithCsr csr s = decodeFails e s := by
  rw [decodeWithCsr, withFrame_of_fetchFrame_error h]

theorem decodeWithCsr_of_fetchFrame_fault {f : Fault} (h : fetchFrame s = .error f) :
    decodeWithCsr csr s = .fault f := by
  rw [decodeWithCsr, withFrame, h, withRead_error]

/-- The row of the csrAddress that the frame carries is DECODE. -/
theorem decodeWithCsr_own {k : SyncWord} {f : Frame} (h : fetchFrame s = .ok (.ok (k, f))) :
    decodeWithCsr f.csr s = exec .decode s := by
  rw [decodeWithCsr_of_fetchFrame_ok h, exec_decode_of_fetchFrame_ok h]

end CsrRows

/-- Settles O4: DECODE runs the row of the frame's csrAddress, and DECODE_PAYLOAD the row of its selector. -/
theorem stepRunsSelectorRows : Obligations.StepRunsSelectorRows := by
  refine ⟨fun s w bytes k f i ht hp hw hpresents hframe hi => ?_, fun s w sel i ht hp hw hi => ?_⟩
  · cases hi
    have hfetch := fetchFrame_of_decodeFrame_ok (s := s.advance) hpresents hframe
    rw [step_of_decodeCmd_ok ht hp hw, exec_ofCsr, decodeWithCsr_own hfetch]
  · obtain ⟨sc, hsc, rfl⟩ := decode_schema_eq_ok hi
    rw [step_of_decodeCmd_ok ht hp hw, exec_decodePayload_of_schema hsc]
    cases sc <;> rfl

/-- Settles O27: each row decodes with its own csrAddress, whose class the demultiplexer reports. -/
theorem csrRowsCommitTheirClass : Obligations.CsrRowsCommitTheirClass := by
  intro i csr cls s bytes k f hrow hpresents hframe
  have hrow : exec i s = decodeWithCsr csr s ∧ csrClassTable csr.toNat = cls := by
    rcases hrow with ⟨rfl, hlow, rfl⟩ | ⟨rfl, rfl, rfl⟩ | ⟨rfl, rfl, rfl⟩ | ⟨rfl, rfl, rfl⟩ | ⟨rfl, rfl, rfl⟩
      | ⟨rfl, rfl, rfl⟩ | ⟨rfl, rfl, rfl⟩ | ⟨rfl, rfl, rfl⟩ | ⟨rfl, hreserved, rfl⟩
    · exact ⟨rfl, if_pos hlow⟩
    · exact ⟨rfl, rfl⟩
    · exact ⟨rfl, rfl⟩
    · exact ⟨rfl, rfl⟩
    · exact ⟨rfl, rfl⟩
    · exact ⟨rfl, rfl⟩
    · exact ⟨rfl, rfl⟩
    · exact ⟨rfl, rfl⟩
    · refine ⟨rfl, ?_⟩
      generalize csr.toNat = n at hreserved
      revert n
      decide
  obtain ⟨hexec, hcls⟩ := hrow
  have hfetch : fetchFrame s = .ok (.ok (k, f)) := fetchFrame_of_decodeFrame_ok hpresents hframe
  obtain ⟨-, hL, -⟩ := fetchFrame_bounds hfetch
  rw [hexec]
  refine ⟨⟨_, decodeWithCsr_of_fetchFrame_ok hfetch, commitsFrame_commit_finish s k _ .ok hL,
    sameButDecode_commit_finish s k _ .ok, completed_finish _ .ok, ?_⟩, fun hown => ?_⟩
  · exact (demux_class f.id csr f.payload).trans hcls
  · rw [← hown, decodeWithCsr_own hfetch]

/-- Settles O28: a csr row fetches as DECODE does, and uses its csrAddress only in the commit. -/
theorem csrRowsFailAsDecode : Obligations.CsrRowsFailAsDecode := by
  intro csr s
  rw [exec_ofCsr]
  have fails : ∀ {e}, fetchFrame s = .ok (.error e) → decodeWithCsr csr s = exec .decode s := fun h =>
    (decodeWithCsr_of_fetchFrame_error h).trans (exec_decode_of_fetchFrame_error h).symm
  exact ⟨fun hr => fails (fetchFrame_of_range hr),
    fun bytes r hp hd => fails (fetchFrame_of_decodeFrame_error hp hd),
    fun f hf => decodeWithCsr_of_fetchFrame_fault (fetchFrame_of_exec_decode_fault hf)⟩

/-! ## The shared checksum engine (R126) -/

/-- DECODE reads the six header bytes of every frame it accepts (R153). -/
theorem header_mem_decodeReads {k : SyncWord} {f : Frame} {surplus : List Byte} {i : Nat}
    (hi : i < 6) : i ∈ decodeReads (encodeFrame k f ++ surplus) := by
  have hlen : (encodeFrame k f ++ surplus).length = 6 + k.width + f.payload.length + k.width + surplus.length := by
    rw [List.length_append, Laws.encodeFrame_length]
  have hsync : SyncWord.ofValue ((leValue (slice (encodeFrame k f ++ surplus) 0 2)).setWidth 16) = some k := by
    rw [slice_append_of_le surplus (by rw [Laws.encodeFrame_length]; omega), leValue_slice_encodeFrame_sync,
      setWidth_value, ofValue_value]
  unfold decodeReads
  simp only [hlen, hsync]
  rw [if_neg (by omega), if_neg (by omega)]
  simp only [List.mem_append, List.mem_cons]
  omega

theorem readBytes_header {s : State} {bytes : List Byte} {k : SyncWord} {f : Frame} (hp : s.rxPresents bytes)
    (hd : decodeFrame bytes = .ok (k, f)) :
    readBytes s .rxb 0 6 = .ok (headerBytes k f.id f.flags f.csr f.payload.length) := by
  obtain ⟨hf, surplus, rfl⟩ := decodeFrame_eq_ok_iff.mp hd
  obtain ⟨-, -, hbytes⟩ := hp
  refine readBytes_eq_ok_iff.mpr ⟨headerBytes_length .., fun i hi => ?_⟩
  rw [Nat.zero_add, hbytes i (header_mem_decodeReads hi), encodeFrame, List.append_assoc, List.append_assoc,
    List.append_assoc, List.getElem?_append_left hi]

/-- The checksum command of a frame's width computes CRCw. -/
theorem exec_checksum_of_width (k : SyncWord) (s : State) :
    exec (if k.width = 1 then .crc8 else .crc32) s = crcCommand (crcW k) s := by
  cases k <;> rfl

/-- Settles O22: RXB[0..6) is the header that DECODE's checksum covers. -/
theorem checksumEngineIsShared : Obligations.ChecksumEngineIsShared := by
  intro s t bytes k f hp hd ht
  cases (exec_decode_of_fetchFrame_ok (fetchFrame_of_decodeFrame_ok hp hd)).symm.trans ht
  have hread := readBytes_header hp hd
  have inside : (0 : Half).toNat + (6 : Half).toNat ≤ Config.rxbSize := by decide
  exact ⟨_, (exec_checksum_of_width k _).trans (crcCommand_of_read (s := { s with crcOff := 0, crcLen := 6 })
    inside hread), rfl, rfl⟩

/-! ## CRC-32 and one changed byte (R121, R154)

Every iteration of CRC-32 can be undone, so two runs that differ in one byte never meet again. -/

/-- The top bit of the polynomial is 1, so bit 31 of an iteration's result is the bit shifted out. -/
theorem crc32Bit_getLsbD_top (c : Word) : (crc32Bit c).getLsbD 31 = c.getLsbD 0 := by
  cases h : c.getLsbD 0 with
  | false => simp [crc32Bit, h, -BitVec.getLsbD_eq_getElem]
  | true => simp [crc32Bit, h, -BitVec.getLsbD_eq_getElem]

theorem crc32Bit_injective : Function.Injective crc32Bit := by
  intro a b h
  have low : a.getLsbD 0 = b.getLsbD 0 := by rw [← crc32Bit_getLsbD_top, h, crc32Bit_getLsbD_top]
  have high : a >>> 1 = b >>> 1 := by
    unfold crc32Bit at h
    rw [low] at h
    split at h
    · exact (BitVec.xor_left_inj _).mp h
    · exact h
  refine BitVec.eq_of_getLsbD_eq fun i hi => ?_
  cases i with
  | zero => exact low
  | succ i =>
    have hbit := congrArg (BitVec.getLsbD · i) high
    simpa only [BitVec.getLsbD_ushiftRight, Nat.add_comm 1] using hbit

theorem iter_injective {α : Type} {f : α → α} (hf : Function.Injective f) (n : Nat) :
    Function.Injective (iter f n) := by
  induction n with
  | zero => exact Function.injective_id
  | succ n ih => exact ih.comp hf

theorem crc32Byte_injective (b : Byte) : Function.Injective fun c => crc32Byte c b := fun _ _ h =>
  (BitVec.xor_left_inj _).mp (iter_injective crc32Bit_injective 8 h)

theorem crc32Byte_byte_injective (c : Word) : Function.Injective (crc32Byte c) := fun x y h => by
  have hxor := (BitVec.xor_right_inj _).mp (iter_injective crc32Bit_injective 8 h)
  have hback := congrArg (BitVec.setWidth 8) hxor
  simpa using hback

theorem foldl_crc32Byte_injective (bytes : List Byte) : Function.Injective fun c => bytes.foldl crc32Byte c := by
  induction bytes with
  | nil => exact Function.injective_id
  | cons b bs ih => exact ih.comp (crc32Byte_injective b)

/-- Settles O14: the runs are equal up to the byte, differ after it, and stay different through the rest. -/
theorem crc32DetectsOneByteChange : Obligations.Crc32DetectsOneByteChange := by
  intro before after x y hne heq
  have hfold := (BitVec.xor_left_inj _).mp heq
  rw [List.foldl_append, List.foldl_append] at hfold
  exact hne (crc32Byte_byte_injective _ (foldl_crc32Byte_injective after hfold))

/-- Settles O23: the stored checksum is that of the unchanged header, from which the changed one's differs. -/
theorem headerCorruptionIsFlagged : Obligations.HeaderCorruptionIsFlagged := by
  intro s k f g hwide hf hfits hn hstored hchange
  obtain ⟨hL, -, -⟩ := frame_wf_iff.mp hf
  have hcrc : crcW k = crc32Fn := by cases k <;> cases hwide <;> rfl
  obtain ⟨hpayload, hhcrc, htcrc, hheader⟩ : g.payload = f.payload ∧ g.hcrc = f.hcrc ∧ g.tcrc = f.tcrc
      ∧ crcW k (headerBytes k f.id f.flags f.csr f.payload.length)
        ≠ crcW k (headerBytes k g.id g.flags g.csr f.payload.length) := by
    rw [hcrc]
    rcases hchange with ⟨b, hb, rfl⟩ | ⟨b, hb, rfl⟩ | ⟨b, hb, rfl⟩
    · exact ⟨rfl, rfl, rfl, crc32DetectsOneByteChange [_, _] [_, _, _] _ _ hb.symm⟩
    · exact ⟨rfl, rfl, rfl, crc32DetectsOneByteChange [_, _, _] [_, _] _ _ hb.symm⟩
    · exact ⟨rfl, rfl, rfl, crc32DetectsOneByteChange [_, _, _, _] [_] _ _ hb.symm⟩
  have hvalid : (g.hcrc == crcW k (headerBytes k g.id g.flags g.csr g.payload.length)) = false := by
    rw [hhcrc, hstored, hpayload]
    exact beq_false_of_ne hheader
  refine ⟨_, exec_ofFrame_of_fits (hpayload ▸ hL) (hpayload ▸ hfits) hn, rfl, rfl, hvalid, ?_, ?_⟩
  · rw [State.finish_plval, State.commit_plval, hvalid, Bool.false_and]
  · rw [State.finish_tvalid, State.commit_tvalid, htcrc, hpayload]

end Sys2Proof.Proofs
end

section
/-! PROOFS. ENCODE's frame (R131), the schema rows and the record (R171 to R181), and what holds of every command: it
ends (R193), it stops only at an unwritten byte (R46), and the boot operands suffice for it (R213). -/

open Sys2Proof Sys2Proof.Machine

namespace Sys2Proof.Proofs

/-! ## ENCODE -/

section Encode
variable {sel : BitVec 2} {s : State}

/-- Past its preconditions ENCODE is decided by the read of PLB[0..PL_LEN). -/
theorem execEncode_of_preconditions (hsel : sel.toNat < 2) (hlen : s.plLen.toNat ≠ 255) :
    execEncode sel s = withRead (readBytes s .plb 0 s.plLen.toNat) fun payload =>
      let bytes := buildFrame (SyncWord.ofSel sel) s.encId s.encFlags s.encCsr payload
      complete { s.writeBytes .txb 0 bytes with txLen := BitVec.ofNat 16 bytes.length } := by
  rw [execEncode, if_neg (Nat.not_le.mpr hsel), if_neg (fun h => hlen (congrArg BitVec.toNat h))]

theorem execEncode_of_read {payload : List Byte} (hsel : sel.toNat < 2) (hlen : s.plLen.toNat ≠ 255)
    (hread : readBytes s .plb 0 s.plLen.toNat = .ok payload) :
    execEncode sel s = .next (({ s.writeBytes .txb 0
        (buildFrame (SyncWord.ofSel sel) s.encId s.encFlags s.encCsr payload) with
      txLen := BitVec.ofNat 16 (buildFrame (SyncWord.ofSel sel) s.encId s.encFlags s.encCsr payload).length } :
        State).finish .ok) := by
  rw [execEncode_of_preconditions hsel hlen, hread, withRead_ok, complete]

theorem ofSel_request (h : sel.toNat < 2) :
    SyncWord.ofSel sel = if sel = 0 then .requestCrc8 else .requestCrc32 := by
  revert sel
  decide

end Encode

/-- Settles O16: past the preconditions the read decides, and the frame's length fits TX_LEN. -/
theorem encodeBuildsFrameInTxb : Obligations.EncodeBuildsFrameInTxb := by
  refine ⟨rfl, rfl, fun sel s hsel hlen => ⟨?_, fun f hread => ?_⟩⟩
  · intro payload hread k
    have hk : SyncWord.ofSel sel = k := ofSel_request hsel
    have hpayload : payload.length ≤ 254 := by
      have := readBytes_length hread
      have := s.plLen.isLt
      omega
    have hle := buildFrame_length_le k s.encId s.encFlags s.encCsr hpayload
    have hfits : (BitVec.ofNat 16 (buildFrame k s.encId s.encFlags s.encCsr payload).length).toNat
        = (buildFrame k s.encId s.encFlags s.encCsr payload).length := Nat.mod_eq_of_lt (by omega)
    have hrun := execEncode_of_read hsel hlen hread
    rw [hk] at hrun
    refine ⟨_, hrun, hfits.trans (buildFrame_length ..), ?_, fun a ha => ?_, rfl⟩
    · exact (congrArg _ hfits).trans (readBytes_writeBytes s .txb 0 _)
    · exact Memory.get_setMany_outside _ s.mem _ a (hfits ▸ ha)
  · rw [exec_encode, execEncode_of_preconditions hsel hlen, hread, withRead_error]

/-! ## The schema rows and the record -/

/-- Settles O29: a schema row is the body of R175 for its schema. -/
theorem schemaRowsRecord : Obligations.SchemaRowsRecord := by
  intro i sc s hrow
  have hexec : exec i s = decodePayloadAs sc s := by
    rcases hrow with ⟨rfl, rfl⟩ | ⟨rfl, rfl⟩ | ⟨rfl, rfl⟩ <;> rfl
  rw [hexec]
  exact ⟨fun hlen => decodePayloadAs_of_plLen_ne hlen,
    fun hlen payload hread => ⟨_, decodePayloadAs_of_read hlen hread, recordsPayload_setRecord_finish s sc payload⟩,
    fun hlen f hread => decodePayloadAs_of_unwritten hlen hread⟩

section PayloadBody
variable {sc : Schema} {s : State}

/-- The body of R175 faults only in its read. -/
theorem decodePayloadAs_eq_fault {f : Fault} (h : decodePayloadAs sc s = .fault f) :
    s.plLen.toNat = widthTable sc ∧ readBytes s .plb 0 (widthTable sc) = .error f := by
  by_cases hw : s.plLen.toNat = widthTable sc
  · rw [decodePayloadAs_of_plLen_eq hw] at h
    obtain hread | ⟨payload, -, hends⟩ := withRead_eq_fault.mp h
    · exact ⟨hw, hread⟩
    · cases hends
  · cases (decodePayloadAs_of_plLen_ne hw).symm.trans h

theorem read_of_decodePayloadAs_eq_next {t : State} (hw : s.plLen.toNat = widthTable sc)
    (h : decodePayloadAs sc s = .next t) : ∃ payload, readBytes s .plb 0 (widthTable sc) = .ok payload := by
  rw [decodePayloadAs_of_plLen_eq hw] at h
  obtain ⟨payload, hread, -⟩ := withRead_eq_next.mp h
  exact ⟨payload, hread⟩

end PayloadBody

/-- Settles O31: the body of R175 compares PL_LEN, reads PLB[0..W) and writes what it read with PLVAL. -/
theorem recordDependsOnlyOnPayload : Obligations.RecordDependsOnlyOnPayload := by
  intro sc sel s u hsel hlen hplval hb
  have hsc := ofSel_eq_some hsel
  rw [exec_decodePayload_of_schema hsc, exec_decodePayload_of_schema hsc]
  have hread : readBytes u .plb 0 (widthTable sc) = readBytes s .plb 0 (widthTable sc) :=
    readBytes_congr fun i _ hi => (hb i (by omega)).symm
  refine ⟨fun f hf => ?_, fun t v ht hv => ?_⟩
  · obtain ⟨hw, herror⟩ := decodePayloadAs_eq_fault hf
    exact decodePayloadAs_of_unwritten (hlen ▸ hw) (hread.trans herror)
  by_cases hw : s.plLen.toNat = widthTable sc
  · obtain ⟨payload, hs⟩ := read_of_decodePayloadAs_eq_next hw ht
    cases (decodePayloadAs_of_read hw hs).symm.trans ht
    cases (decodePayloadAs_of_read (hlen ▸ hw) (hread.trans hs)).symm.trans hv
    exact ⟨rfl, rfl, congrArg (pInfoWord sc) hplval, rfl⟩
  · cases (decodePayloadAs_of_plLen_ne hw).symm.trans ht
    cases (decodePayloadAs_of_plLen_ne (hlen ▸ hw)).symm.trans hv
    exact ⟨rfl, rfl, rfl, rfl⟩

section Dispatch
variable {s : State} {k : SyncWord} {f : Frame} {sc : Schema}

/-- The payload that a commit left in PLB is there to be decoded. -/
theorem decodePayloadAs_commit (hL : f.payload.length ≤ 254) (hw : f.payload.length = widthTable sc) :
    decodePayloadAs sc (s.commit k f) = .next (((s.commit k f).setRecord sc f.payload).finish .ok) := by
  obtain ⟨hread, hlen⟩ := (commitsFrame_commit_finish s k f .ok hL).payload
  exact decodePayloadAs_of_read (hlen.trans hw) (hw ▸ hread)

theorem decodePayloadAs_commit_advances (hL : f.payload.length ≤ 254) :
    Advances (decodePayloadAs sc (s.commit k f)) := by
  by_cases hw : f.payload.length = widthTable sc
  · exact ⟨_, decodePayloadAs_commit hL hw⟩
  · obtain ⟨-, hlen⟩ := (commitsFrame_commit_finish s k f .ok hL).payload
    exact ⟨_, decodePayloadAs_of_plLen_ne (s := s.commit k f) (hlen ▸ hw)⟩

/-- Once the fetch does not fault, DECODE_DISPATCH completes. -/
theorem exec_decodeDispatch_advances {r : Except DecodeError (SyncWord × Frame)} (sel : BitVec 4)
    (hfetch : fetchFrame s = .ok r) : Advances (exec (.decodeDispatch sel) s) := by
  cases hsel : Schema.ofSel sel with
  | none => exact ⟨_, exec_decodeDispatch_of_reserved hsel⟩
  | some sc =>
    match r, hfetch with
    | .error e, hfetch => exact ⟨_, exec_decodeDispatch_of_fetchFrame_error hsel hfetch⟩
    | .ok (k, f), hfetch =>
      obtain ⟨-, hL, -⟩ := fetchFrame_bounds hfetch
      rw [exec_decodeDispatch_of_fetchFrame_ok hsel hfetch, dispatchCommitted]
      split
      · exact decodePayloadAs_commit_advances hL
      · exact ⟨_, rfl⟩

end Dispatch

/-- Settles O33: both flags are 1, so the committed payload is dispatched, with PLVAL 1 for SRCVAL. -/
theorem dispatchCompletes : Obligations.DispatchCompletes := by
  intro sel sc s bytes k f hsel hpresents hframe hhcrc htcrc hw
  have hfetch := fetchFrame_of_decodeFrame_ok hpresents hframe
  obtain ⟨-, hL, -⟩ := fetchFrame_bounds hfetch
  have hh : (s.commit k f).hvalid = true := beq_iff_eq.mpr hhcrc
  have ht : (s.commit k f).tvalid = true := beq_iff_eq.mpr htcrc
  have hplval : (s.commit k f).plval = true := Bool.and_eq_true_iff.mpr ⟨hh, ht⟩
  have recorded := recordsPayload_setRecord_finish ((s.commit k f).finish .ok) sc f.payload
  have committed := commitsFrame_commit_finish s k f .ok hL
  refine ⟨_, _, exec_decode_of_fetchFrame_ok hfetch, ?_, ?_, recorded, ?_⟩
  · rw [exec_decodeDispatch_of_fetchFrame_ok (ofSel_eq_some hsel) hfetch, dispatchCommitted_of_valid sc hh ht]
    exact decodePayloadAs_commit hL hw
  · exact { committed with }
  · obtain ⟨-, -, -, hsrc, -⟩ := recorded.info
    exact hsrc.trans hplval

/-- Settles O34: every other way that DECODE_DISPATCH ends clears RVALID, or is BadSchema. -/
theorem dispatchNeverDecodesUnvalidated : Obligations.DispatchNeverDecodesUnvalidated := by
  intro sel s t h hr herr
  cases hsel : Schema.ofSel sel with
  | none =>
    cases (exec_decodeDispatch_of_reserved hsel).symm.trans h
    exact absurd rfl herr
  | some sc =>
    rw [exec_decodeDispatch_of_schema hsel] at h
    obtain ⟨e, h⟩ | ⟨k, f, -, h⟩ := withFrame_eq_next h
    · cases h
      cases hr
    by_cases hv : ((s.commit k f).hvalid && (s.commit k f).tvalid) = true
    · have ⟨hh, ht⟩ := Bool.and_eq_true_iff.mp hv
      rw [dispatchCommitted_of_valid sc hh ht] at h
      obtain ⟨-, rfl⟩ | ⟨-, payload, -, rfl⟩ := decodePayloadAs_eq_next h
      · cases hr
      · obtain ⟨-, -, -, hsrc, -⟩ := pInfoWord_fields sc (s.commit k f).plval
        exact ⟨rfl, rfl, hh, ht, hv, hsrc.trans hv⟩
    · cases (dispatchCommitted_of_invalid sc (Bool.not_eq_true _ ▸ hv)).symm.trans h
      cases hr

/-! ## How every command ends -/

/-- Settles O35: every next state of a command is a completion. -/
theorem everyCommandEnds : Obligations.EveryCommandEnds := by
  intro i s t h
  obtain ⟨e, u, rfl, -⟩ := exec_eq_next h
  exact ⟨rfl, rfl, rfl⟩

/-- The result is a next state, or the fault of an unwritten byte of RXB or PLB. -/
def StopsOnlyUnwritten (s : State) (r : Result) : Prop :=
  Advances r
    ∨ ∃ b j, r = .fault (.unwrittenRead b j) ∧ s.byte b j = none ∧ ((b = .rxb ∧ j < 512) ∨ (b = .plb ∧ j < 256))

section Stops
variable {s : State}

theorem withRead_stops {b : Buffer} {a n : Nat} {go : List Byte → Result}
    (h : (b = .rxb ∧ a + n ≤ 512) ∨ (b = .plb ∧ a + n ≤ 256)) (hgo : ∀ bytes, Advances (go bytes)) :
    StopsOnlyUnwritten s (withRead (readBytes s b a n) go) := by
  cases hread : readBytes s b a n with
  | ok bytes => exact .inl (hgo bytes)
  | error f =>
    obtain ⟨i, -, hi, rfl, hnone⟩ := readBytes_eq_error hread
    exact .inr ⟨b, i, rfl, hnone, h.imp (fun ⟨hb, hn⟩ => ⟨hb, by omega⟩) fun ⟨hb, hn⟩ => ⟨hb, by omega⟩⟩

/-- PL_LEN is at most 255, so a read of PLB[0..PL_LEN) is inside PLB. -/
theorem withRead_plb_stops {n : Nat} {go : List Byte → Result} (h : s.plLen.toNat = n)
    (hgo : ∀ bytes, Advances (go bytes)) : StopsOnlyUnwritten s (withRead (readBytes s .plb 0 n) go) :=
  withRead_stops (.inr ⟨rfl, by have := s.plLen.isLt; omega⟩) hgo

/-- A command that completes whatever the fetch answers stops only where the fetch does. -/
theorem fetch_stops {r : Result} (hok : ∀ x, fetchFrame s = .ok x → Advances r)
    (herror : ∀ f, fetchFrame s = .error f → r = .fault f) : StopsOnlyUnwritten s r := by
  cases hfetch : fetchFrame s with
  | ok x => exact .inl (hok x hfetch)
  | error f =>
    obtain ⟨i, rfl, hnone, hi⟩ := fetchFrame_eq_fault hfetch
    exact .inr ⟨.rxb, i, herror _ hfetch, hnone, .inl ⟨rfl, hi⟩⟩

theorem crcCommand_stops (fn : List Byte → Word) (s : State) : StopsOnlyUnwritten s (crcCommand fn s) := by
  rcases Nat.lt_or_ge Config.rxbSize (s.crcOff.toNat + s.crcLen.toNat) with hout | hin
  · exact .inl ⟨_, crcCommand_of_outside hout⟩
  · rw [crcCommand_of_inside hin]
    exact withRead_stops (.inl ⟨rfl, hin⟩) fun _ => ⟨_, rfl⟩

theorem acceptFrame_advances (k : SyncWord) (f : Frame) (s : State) : Advances (acceptFrame k f s) :=
  (acceptFrame_cases k f s).elim (fun ⟨_, h⟩ => ⟨_, h⟩) fun h => ⟨_, h⟩

theorem decodeWithCsr_stops (csr : Byte) (s : State) : StopsOnlyUnwritten s (decodeWithCsr csr s) :=
  fetch_stops (fun
    | .error _, h => ⟨_, decodeWithCsr_of_fetchFrame_error h⟩
    | .ok (_, _), h => ⟨_, decodeWithCsr_of_fetchFrame_ok h⟩)
    fun _ h => decodeWithCsr_of_fetchFrame_fault h

theorem decodePayloadAs_stops (sc : Schema) (s : State) : StopsOnlyUnwritten s (decodePayloadAs sc s) := by
  by_cases hw : s.plLen.toNat = widthTable sc
  · rw [decodePayloadAs_of_plLen_eq hw]
    exact withRead_plb_stops hw fun _ => ⟨_, rfl⟩
  · exact .inl ⟨_, decodePayloadAs_of_plLen_ne hw⟩

theorem execEncode_stops (sel : BitVec 2) (s : State) : StopsOnlyUnwritten s (execEncode sel s) := by
  by_cases hpre : 2 ≤ sel.toNat ∨ s.plLen.toNat = 255
  · exact .inl ⟨_, encodePreconditionsFail sel s hpre⟩
  · rw [not_or, Nat.not_le] at hpre
    rw [execEncode_of_preconditions hpre.1 hpre.2]
    exact withRead_plb_stops rfl fun _ => ⟨_, rfl⟩

end Stops

/-- Settles O36: a command stops only in a CODEC read, which is of RXB or PLB and inside it; DECODE_DISPATCH reads the
payload that it has just written. -/
theorem onlyUnwrittenReadsStop : Obligations.OnlyUnwrittenReadsStop := by
  intro i s
  show StopsOnlyUnwritten s (exec i s)
  cases i with
  | nop => exact .inl ⟨_, exec_nop s⟩
  | crc8 => exact crcCommand_stops _ s
  | crc32 => exact crcCommand_stops _ s
  | encode sel => exact execEncode_stops sel s
  | decode => exact fetch_stops (fun _ h => exec_decode_advances h) fun _ h => exec_decode_of_fetchFrame_fault h
  | decodePayload sel =>
    cases hsel : Schema.ofSel sel with
    | none => exact .inl ⟨_, exec_decodePayload_of_reserved hsel⟩
    | some sc => exact exec_decodePayload_of_schema hsel ▸ decodePayloadAs_stops sc s
  | decodeDispatch sel =>
    cases hsel : Schema.ofSel sel with
    | none => exact .inl ⟨_, exec_decodeDispatch_of_reserved hsel⟩
    | some sc =>
      exact fetch_stops (fun _ h => exec_decodeDispatch_advances sel h) fun _ h =>
        exec_decodeDispatch_of_fetchFrame_fault hsel h
  | requestCrc8 f => exact .inl (acceptFrame_advances _ f s)
  | requestCrc32 f => exact .inl (acceptFrame_advances _ f s)
  | responseCrc8 f => exact .inl (acceptFrame_advances _ f s)
  | responseCrc32 f => exact .inl (acceptFrame_advances _ f s)
  | deviceReg csr => exact decodeWithCsr_stops csr s
  | custom => exact decodeWithCsr_stops _ s
  | configSize => exact decodeWithCsr_stops _ s
  | configData => exact decodeWithCsr_stops _ s
  | nodeId => exact decodeWithCsr_stops _ s
  | groupId => exact decodeWithCsr_stops _ s
  | deviceId => exact decodeWithCsr_stops _ s
  | utility => exact decodeWithCsr_stops _ s
  | reservedF csr => exact decodeWithCsr_stops csr s
  | motor => exact decodePayloadAs_stops _ s
  | light => exact decodePayloadAs_stops _ s
  | bam => exact decodePayloadAs_stops _ s

/-! ## Boot requirements (R213) -/

section Boot
variable {s : State} {bytes : List Byte}

theorem crcCommand_advances (fn : List Byte → Word) (h : readBytes s .rxb s.crcOff.toNat s.crcLen.toNat = .ok bytes) :
    Advances (crcCommand fn s) := by
  rcases Nat.lt_or_ge Config.rxbSize (s.crcOff.toNat + s.crcLen.toNat) with hout | hin
  · exact ⟨_, crcCommand_of_outside hout⟩
  · exact ⟨_, crcCommand_of_read hin h⟩

theorem execEncode_advances (sel : BitVec 2) (h : readBytes s .plb 0 s.plLen.toNat = .ok bytes) :
    Advances (execEncode sel s) := by
  by_cases hpre : 2 ≤ sel.toNat ∨ s.plLen.toNat = 255
  · exact ⟨_, encodePreconditionsFail sel s hpre⟩
  · rw [not_or, Nat.not_le] at hpre
    rw [execEncode_of_preconditions hpre.1 hpre.2, h]
    exact ⟨_, rfl⟩

theorem exec_decodePayload_advances (sel : BitVec 4) (h : readBytes s .plb 0 s.plLen.toNat = .ok bytes) :
    Advances (exec (.decodePayload sel) s) := by
  cases hsel : Schema.ofSel sel with
  | none => exact ⟨_, exec_decodePayload_of_reserved hsel⟩
  | some sc =>
    rw [exec_decodePayload_of_schema hsel]
    by_cases hw : s.plLen.toNat = widthTable sc
    · exact ⟨_, decodePayloadAs_of_read hw (hw ▸ h)⟩
    · exact ⟨_, decodePayloadAs_of_plLen_ne hw⟩

/-- A written receive buffer does not stop the fetch, whatever its length. -/
theorem fetchFrame_of_written (h : readBytes s .rxb 0 s.rxLen.toNat = .ok bytes) : ∃ r, fetchFrame s = .ok r := by
  rcases Nat.lt_or_ge Config.rxbSize s.rxLen.toNat with hr | hn
  · exact ⟨_, fetchFrame_of_range hr⟩
  · exact ⟨_, fetchFrame_of_presents (rxPresents_of_written hn h)⟩

end Boot

/-- Settles O37: with its operand bytes written the one read of a command, or the fetch, does not stop it. -/
theorem bootOperandsSuffice : Obligations.BootOperandsSuffice := by
  intro s
  refine ⟨⟨_, exec_nop s⟩, fun ⟨_, h⟩ => ⟨crcCommand_advances _ h, crcCommand_advances _ h⟩,
    fun ⟨_, h⟩ sync schema => ⟨execEncode_advances sync h, exec_decodePayload_advances schema h⟩,
    fun ⟨_, h⟩ schema => ?_⟩
  obtain ⟨r, hfetch⟩ := fetchFrame_of_written h
  exact ⟨exec_decode_advances hfetch, exec_decodeDispatch_advances schema hfetch⟩

end Sys2Proof.Proofs
end

section
/-! PROOFS. What each command leaves alone (R22, R217): one lemma for each group of registers, over what a command can
write. -/

open Sys2Proof Sys2Proof.Machine

namespace Sys2Proof.Proofs

/-! ## Bytes that a command's writes leave -/

section Bytes
variable (s : State) {b : Buffer} {j : Nat}

/-- A commit writes PLB, above RXB and TXB. -/
theorem byte_commit_below (k : SyncWord) (f : Frame) (h : b.base + j < Buffer.plb.base) :
    (s.commit k f).byte b j = s.byte b j :=
  byte_writeBytes_outside s .plb b 0 j f.payload (.inl h)

theorem byte_encodes_below (bytes : List Byte) (h : b.base + j < Buffer.txb.base) :
    (s.writeBytes .txb 0 bytes).byte b j = s.byte b j :=
  byte_writeBytes_outside s .txb b 0 j bytes (.inl h)

/-- A built frame ends inside TXB, below PLB. -/
theorem byte_encodes_plb (k : SyncWord) (id flags csr : Byte) {payload : List Byte} (hl : payload.length ≤ 254)
    (j : Nat) :
    (s.writeBytes .txb 0 (buildFrame k id flags csr payload)).byte .plb j = s.byte .plb j :=
  byte_writeBytes_outside s .txb .plb 0 j _ <| .inr <| by
    have := buildFrame_length_le k id flags csr hl
    have := buffers_adjacent
    have := buffer_sizes
    omega

theorem rxb_below_txb (h : j < 512) : Buffer.rxb.base + j < Buffer.txb.base := by
  have := buffers_adjacent
  have := buffer_sizes
  omega

theorem txb_below_plb (h : j < 512) : Buffer.txb.base + j < Buffer.plb.base := by
  have := buffers_adjacent
  have := buffer_sizes
  omega

end Bytes

/-! ## The groups of R22 -/

section Groups
variable {i : Instr} {s u : State}

/-- No command writes CMD, OVERRUN, RX_LEN, ENC_HDR, CRC_OFF, CRC_LEN or the model's own fields. -/
theorem writes_operands (h : Writes i s u) :
    u.cmd = s.cmd ∧ u.overrun = s.overrun ∧ u.rxLen = s.rxLen ∧ u.encId = s.encId ∧ u.encFlags = s.encFlags
      ∧ u.encCsr = s.encCsr ∧ u.crcOff = s.crcOff ∧ u.crcLen = s.crcLen ∧ u.inputs = s.inputs
      ∧ u.hostRdata = s.hostRdata ∧ u.draws = s.draws := by
  cases h <;> exact ⟨rfl, rfl, rfl, rfl, rfl, rfl, rfl, rfl, rfl, rfl, rfl⟩

/-- No command writes RXB. -/
theorem writes_rxb (h : Writes i s u) {j : Nat} (hj : j < 512) : u.byte .rxb j = s.byte .rxb j := by
  have below_txb := rxb_below_txb hj
  have below_plb : Buffer.rxb.base + j < Buffer.plb.base := by have := buffers_adjacent; omega
  cases h with
  | encodes => exact byte_encodes_below s _ below_txb
  | commits _ _ k f => exact byte_commit_below s k f below_plb
  | dispatchClears _ _ k f => exact byte_commit_below s k f below_plb
  | dispatchRecords _ _ k f => exact byte_commit_below s k f below_plb
  | _ => rfl

/-- TX_LEN and TXB are ENCODE's. -/
theorem writes_txb (h : Writes i s u) (hi : ∀ sel, i ≠ .encode sel) :
    u.txLen = s.txLen ∧ ∀ j, j < 512 → u.byte .txb j = s.byte .txb j := by
  cases h with
  | encodeFails sel => exact absurd rfl (hi sel)
  | encodes sel => exact absurd rfl (hi sel)
  | commits _ _ k f => exact ⟨rfl, fun j hj => byte_commit_below s k f (txb_below_plb hj)⟩
  | dispatchClears _ _ k f => exact ⟨rfl, fun j hj => byte_commit_below s k f (txb_below_plb hj)⟩
  | dispatchRecords _ _ k f => exact ⟨rfl, fun j hj => byte_commit_below s k f (txb_below_plb hj)⟩
  | _ => exact ⟨rfl, fun _ _ => rfl⟩

/-- CRC_RESULT is the checksum commands'. -/
theorem writes_crcResult (h : Writes i s u) (h8 : i ≠ .crc8) (h32 : i ≠ .crc32) : u.crcResult = s.crcResult := by
  cases h with
  | crc _ _ _ hi => exact absurd hi (not_or.mpr ⟨h8, h32⟩)
  | _ => rfl

/-- The D_* registers, the frame flags, PL_LEN and PLB are a decode's. -/
theorem writes_decoded (h : Writes i s u) (hi : decodesFrame i = false) :
    u.dSync = s.dSync ∧ u.dHdr = s.dHdr ∧ u.dHcrcRx = s.dHcrcRx ∧ u.dHcrcCalc = s.dHcrcCalc
      ∧ u.dTcrcRx = s.dTcrcRx ∧ u.dTcrcCalc = s.dTcrcCalc ∧ u.dFlen = s.dFlen ∧ u.dRoute = s.dRoute
      ∧ u.dvalid = s.dvalid ∧ u.hvalid = s.hvalid ∧ u.tvalid = s.tvalid ∧ u.plval = s.plval ∧ u.plLen = s.plLen
      ∧ ∀ j, j < 256 → u.byte .plb j = s.byte .plb j := by
  cases h with
  | encodes _ _ payload _ hl =>
    exact ⟨rfl, rfl, rfl, rfl, rfl, rfl, rfl, rfl, rfl, rfl, rfl, rfl, rfl, fun j _ => byte_encodes_plb s _ _ _ _ hl j⟩
  | decodeFails _ _ _ hd => cases hd.symm.trans hi
  | commits _ _ _ _ hd => cases hd.symm.trans hi
  | dispatchFails => cases hi
  | dispatchClears => cases hi
  | dispatchRecords => cases hi
  | _ => exact ⟨rfl, rfl, rfl, rfl, rfl, rfl, rfl, rfl, rfl, rfl, rfl, rfl, rfl, fun _ _ => rfl⟩

/-- REC, P_INFO and RVALID are the payload-decoding commands'. -/
theorem writes_record (h : Writes i s u) (hi : writesRecord i = false) :
    u.record = s.record ∧ u.pInfo = s.pInfo ∧ u.rvalid = s.rvalid := by
  cases h with
  | clears _ _ hr => cases hr.symm.trans hi
  | records _ _ _ _ hr => cases hr.symm.trans hi
  | dispatchFails => cases hi
  | dispatchClears => cases hi
  | dispatchRecords => cases hi
  | _ => exact ⟨rfl, rfl, rfl⟩

end Groups

/-- Settles O38: what a command can write before its completion, group by group; the completion writes none of them. -/
theorem commandsWriteOnlyTheirResults : Obligations.CommandsWriteOnlyTheirResults := by
  intro i s t h
  obtain ⟨e, u, rfl, hw⟩ := exec_eq_next h
  exact ⟨writes_operands (u := u) hw, fun _ hj => writes_rxb (u := u) hw hj, writes_txb (u := u) hw,
    writes_crcResult (u := u) hw, writes_decoded (u := u) hw, writes_record (u := u) hw⟩

end Sys2Proof.Proofs
end

section
/-! PROOFS. The register map as the host reads it: every bit of STATUS (R25), the offsets (R22), and what each other
register holds. -/

open Sys2Proof Sys2Proof.Machine

namespace Sys2Proof.Proofs

/-! ## STATUS -/

theorem code_toNat_eq_errorNumberTable (e : ErrCode) : e.code.toNat = errorNumberTable e := by
  cases e <;> rfl

section StatusWord
variable (s : State)

/-- The one-bit fields of STATUS. -/
theorem statusWord_flags :
    s.statusWord.getLsbD 0 = s.busy ∧ s.statusWord.getLsbD 1 = s.done ∧ s.statusWord.getLsbD 8 = s.overrun
      ∧ s.statusWord.getLsbD 9 = s.dvalid ∧ s.statusWord.getLsbD 10 = s.rvalid ∧ s.statusWord.getLsbD 11 = s.hvalid
      ∧ s.statusWord.getLsbD 12 = s.tvalid ∧ s.statusWord.getLsbD 13 = s.plval := by
  simp [State.statusWord, getLsbD_flagBit, -BitVec.getLsbD_eq_getElem]

/-- ERR and the reserved bits of STATUS. -/
theorem statusWord_fields :
    s.statusWord.extractLsb' 2 2 = 0 ∧ s.statusWord.extractLsb' 4 4 = s.err.code
      ∧ s.statusWord.extractLsb' 14 18 = 0 := by
  simp (disch := omega) only [State.statusWord, BitVec.extractLsb'_or, extractLsb'_flagBit_outside,
    extractLsb'_shiftLeft_below, extractLsb'_shiftLeft_above, extractLsb'_setWidth_above, extractLsb'_setWidth_self,
    Nat.sub_self, BitVec.or_zero, BitVec.zero_or, BitVec.ofNat_eq_ofNat, and_self]

end StatusWord

/-- Settles O55: STATUS is the OR of its fields, each of which is read back from its own bits. -/
theorem statusWordFields : Obligations.StatusWordFields := by
  intro s v
  obtain ⟨hbusy, hdone, hoverrun, hdvalid, hrvalid, hhvalid, htvalid, hplval⟩ := statusWord_flags s
  obtain ⟨hres2, herr, hres14⟩ := statusWord_fields s
  exact ⟨hbusy, hdone, hres2, (congrArg BitVec.toNat herr).trans (code_toNat_eq_errorNumberTable s.err), hoverrun,
    hdvalid, hrvalid, hhvalid, htvalid, hplval, hres14⟩

/-! ## The other registers -/

/-- A field that a register holds in its low bits, with 0 above it. -/
theorem setWidth_fields {w : Nat} (b : BitVec w) (h : w ≤ 32) :
    (b.setWidth 32 : Word).extractLsb' 0 w = b ∧ (b.setWidth 32 : Word).extractLsb' w (32 - w) = 0 :=
  ⟨extractLsb'_setWidth_self b h, extractLsb'_setWidth_above b (Nat.le_refl w)⟩

theorem encHdr_fields (s : State) :
    (s.regWord .encHdr).extractLsb' 0 8 = s.encId ∧ (s.regWord .encHdr).extractLsb' 8 8 = s.encFlags
      ∧ (s.regWord .encHdr).extractLsb' 16 8 = s.encCsr ∧ (s.regWord .encHdr).extractLsb' 24 8 = 0 := by
  simp (disch := omega) only [State.regWord, BitVec.extractLsb'_or, extractLsb'_shiftLeft_below,
    extractLsb'_shiftLeft_above, extractLsb'_setWidth_above, extractLsb'_setWidth_self, Nat.sub_self, BitVec.or_zero,
    BitVec.zero_or, BitVec.ofNat_eq_ofNat, and_self]

/-- Settles O56: the offsets are those of the table, and a register is its value, zero-extended. -/
theorem registerMapFields : Obligations.RegisterMapFields := by
  refine ⟨⟨rfl, rfl, rfl, rfl, rfl, rfl, rfl, rfl, rfl, rfl, rfl, rfl, rfl, rfl, rfl, rfl, rfl, rfl, fun _ => rfl⟩,
    ⟨rfl, rfl, rfl⟩, fun s => ⟨rfl, setWidth_fields s.rxLen (by decide), setWidth_fields s.txLen (by decide),
      setWidth_fields s.plLen (by decide), encHdr_fields s, setWidth_fields s.crcOff (by decide),
      setWidth_fields s.crcLen (by decide), rfl, rfl, rfl, rfl, rfl, rfl, rfl, rfl, rfl, rfl, fun _ => rfl⟩⟩

end Sys2Proof.Proofs
end

section
/-! PROOFS. The host's bus: which accesses it refuses (R63), and what a read returns and a write stores (R67, R216). -/

open Sys2Proof Sys2Proof.Machine

namespace Sys2Proof.Proofs

/-! ## What an access reaches -/

theorem atOffset_isSome (off : Nat) :
    (Reg.atOffset off).isSome = true ↔ off < 0x048 ∨ (0x100 ≤ off ∧ off < 0x180) := by
  unfold Reg.atOffset
  split
  · simp only [isSome_getElem?, regTable, List.length_cons, List.length_nil]
    omega
  · split
    · simp only [Option.isSome_some, true_iff]
      omega
    · simp only [Option.isSome_none, Bool.false_eq_true, false_iff]
      omega

/-- The bus accepts exactly the aligned 32-bit accesses of mapped registers and the 8-bit accesses of buffer bytes. -/
theorem target_isSome (off n : Nat) : (target off n).isSome = true ↔ legalAccess off n := by
  unfold target legalAccess
  split
  · split
    · rw [Option.isSome_map, atOffset_isSome]
      omega
    · simp only [Option.isSome_none, Bool.false_eq_true, false_iff]
      omega
  · repeat' split
    all_goals simp only [Option.isSome_none, Option.isSome_some, Bool.false_eq_true, false_iff, true_iff]
    all_goals omega

theorem target_reg (r : Reg) : target r.offset 4 = some (.reg r) := by
  cases r with
  | record k =>
    revert k
    decide
  | _ => rfl

theorem target_byte {b : Buffer} {j : Nat} (h : j < b.size) : target (b.base + j) 1 = some (.byte b j) := by
  obtain ⟨hrxb, htxb, hplb⟩ := buffer_sizes
  cases b with
  | rxb =>
    change target (0x400 + j) 1 = _
    rw [target, if_neg (by omega), if_neg (by decide), if_pos (by omega), Nat.add_sub_cancel_left]
  | txb =>
    change target (0x600 + j) 1 = _
    rw [target, if_neg (by omega), if_neg (by decide), if_neg (by omega), if_pos (by omega), Nat.add_sub_cancel_left]
  | plb =>
    change target (0x800 + j) 1 = _
    rw [target, if_neg (by omega), if_neg (by decide), if_neg (by omega), if_neg (by omega), if_pos (by omega),
      Nat.add_sub_cancel_left]

theorem legalAccess_lt_windowSize {off n : Nat} (h : legalAccess off n) : off < Config.windowSize := by
  have hsize : Config.windowSize = 4096 := rfl
  unfold legalAccess at h
  omega

theorem legalAccess_of_target {off n : Nat} {t : Target} (h : target off n = some t) : legalAccess off n :=
  (target_isSome off n).mp (h ▸ rfl)

/-! ## The step of an access -/

section Access
variable {s : State} {rest : List Input} {off n : Nat} {v : Word}

/-- A read in the window is answered at its offset. -/
theorem step_read (hoff : off < Config.windowSize) (h : s.inputs = .read (Config.codecBase + off) n :: rest) :
    step s = hostRead (BitVec.ofNat 12 off) n s.advance := by
  rw [step, h, ← advance_of_cons h]
  simp only [busAccess, windowOffset_in_window off hoff]

theorem step_write (hoff : off < Config.windowSize) (h : s.inputs = .write (Config.codecBase + off) n v :: rest) :
    step s = hostWrite (BitVec.ofNat 12 off) n v s.advance := by
  rw [step, h, ← advance_of_cons h]
  simp only [busAccess, windowOffset_in_window off hoff]

theorem ofNat_offset_toNat (h : off < Config.windowSize) : (BitVec.ofNat 12 off).toNat = off := Nat.mod_eq_of_lt h

/-- While BUSY = 1 a write that the bus accepts is ignored. -/
theorem hostWrite_of_busy (hbusy : s.busy = true) (h : legalAccess off n) :
    hostWrite (BitVec.ofNat 12 off) n v s = .next { s with overrun := true } := by
  obtain ⟨tg, htg⟩ := Option.isSome_iff_exists.mp ((target_isSome off n).mpr h)
  rw [hostWrite, ofNat_offset_toNat (legalAccess_lt_windowSize h), htg]
  exact if_pos hbusy

theorem step_readReg {r : Reg} (h : s.inputs = .read (Config.codecBase + r.offset) 4 :: rest) :
    step s = .next (s.advance.readReg r) := by
  have hoff := legalAccess_lt_windowSize (legalAccess_of_target (target_reg r))
  rw [step_read hoff h, hostRead, ofNat_offset_toNat hoff, target_reg]

theorem step_readByte {b : Buffer} {j : Nat} (hj : j < b.size)
    (h : s.inputs = .read (Config.codecBase + (b.base + j)) 1 :: rest) : step s = .next (s.advance.readByte b j) := by
  have hoff := legalAccess_lt_windowSize (legalAccess_of_target (target_byte hj))
  rw [step_read hoff h, hostRead, ofNat_offset_toNat hoff, target_byte hj]

theorem step_writeReg {r : Reg} (hidle : s.busy = false)
    (h : s.inputs = .write (Config.codecBase + r.offset) 4 v :: rest) : step s = .next (s.advance.writeReg r v) := by
  have hoff := legalAccess_lt_windowSize (legalAccess_of_target (target_reg r))
  rw [step_write hoff h, hostWrite, ofNat_offset_toNat hoff, target_reg]
  exact if_neg (Bool.not_eq_true _ ▸ hidle)

theorem step_writeByte {b : Buffer} {j : Nat} (hidle : s.busy = false) (hj : j < b.size)
    (h : s.inputs = .write (Config.codecBase + (b.base + j)) 1 v :: rest) :
    step s = .next (s.advance.writeByte b j (v.extractLsb' 0 8)) := by
  have hoff := legalAccess_lt_windowSize (legalAccess_of_target (target_byte hj))
  rw [step_write hoff h, hostWrite, ofNat_offset_toNat hoff, target_byte hj]
  exact if_neg (Bool.not_eq_true _ ▸ hidle)

theorem step_write_of_busy (hbusy : s.busy = true) (hlegal : legalAccess off n)
    (h : s.inputs = .write (Config.codecBase + off) n v :: rest) : step s = .next { s.advance with overrun := true } :=
  (step_write (legalAccess_lt_windowSize hlegal) h).trans (hostWrite_of_busy (s := s.advance) hbusy hlegal)

end Access

/-! ## Refused accesses (R63) -/

section Refused
variable {s : State} {off : BitVec 12} {n : Nat}

theorem hostRead_of_illegal (h : ¬ legalAccess off.toNat n) : hostRead off n s = .fault (.busError off) := by
  rw [hostRead, Option.not_isSome_iff_eq_none.mp (mt (target_isSome off.toNat n).mp h)]

theorem hostWrite_of_illegal {v : Word} (h : ¬ legalAccess off.toNat n) :
    hostWrite off n v s = .fault (.busError off) := by
  rw [hostWrite, Option.not_isSome_iff_eq_none.mp (mt (target_isSome off.toNat n).mp h)]

theorem hostRead_advances (h : legalAccess off.toNat n) : Advances (hostRead off n s) := by
  obtain ⟨tg, htg⟩ := Option.isSome_iff_exists.mp ((target_isSome off.toNat n).mpr h)
  rw [hostRead, htg]
  cases tg <;> exact ⟨_, rfl⟩

theorem hostWrite_advances {v : Word} (h : legalAccess off.toNat n) : Advances (hostWrite off n v s) := by
  obtain ⟨tg, htg⟩ := Option.isSome_iff_exists.mp ((target_isSome off.toNat n).mpr h)
  rw [hostWrite, htg]
  dsimp only
  split
  · exact ⟨_, rfl⟩
  · cases tg <;> exact ⟨_, rfl⟩

end Refused

/-- Settles O39: an access in the window is answered by its target, and the bus refuses it where there is none. -/
theorem illegalAccessesAreBusErrors : Obligations.IllegalAccessesAreBusErrors := by
  intro s rest off n x hx hinputs
  have back : BitVec.ofNat 12 off.toNat = off := by rw [BitVec.ofNat_toNat, BitVec.setWidth_eq]
  rcases hx with rfl | ⟨v, rfl⟩
  · rw [step_read off.isLt hinputs, back]
    exact ⟨hostRead_of_illegal, hostRead_advances⟩
  · rw [step_write off.isLt hinputs, back]
    exact ⟨hostWrite_of_illegal, hostWrite_advances⟩

/-! ## What a read returns -/

section Reads
variable {s : State}

theorem readReg_of_known {r : Reg} (h : s.busy = false ∨ r.busyDrawMask = 0) :
    s.readReg r = s.readKnown (s.regWord r) := by
  unfold State.readReg
  rcases h with h | h <;> simp [h]

theorem readReg_of_drawn {r : Reg} (hbusy : s.busy = true) (h : r.busyDrawMask ≠ 0) :
    s.readReg r = s.readDraw (s.regWord r) r.busyDrawMask :=
  if_pos (Bool.and_eq_true_iff.mpr ⟨hbusy, bne_iff_ne.mpr h⟩)

theorem readByte_of_written {b : Buffer} {j : Nat} {v : Byte} (hknown : s.busy = false ∨ b = .rxb)
    (h : s.byte b j = some v) : s.readByte b j = s.readKnown (v.setWidth 32) := by
  unfold State.readByte
  rw [h]
  rcases hknown with hk | hk <;> simp [hk]

/-- A drawn byte is the low 8 bits of the draw. -/
theorem readDraw_byte (s : State) :
    s.readDraw 0 0xFF = { s with hostRdata := Config.draw s.draws &&& 0xFF, draws := s.draws + 1 } := by
  simp [State.readDraw]

theorem readByte_of_unwritten {b : Buffer} {j : Nat} (h : s.byte b j = none) :
    s.readByte b j = { s with hostRdata := Config.draw s.draws &&& 0xFF, draws := s.draws + 1 } := by
  rw [State.readByte, h]
  exact readDraw_byte s

theorem readByte_of_busy {b : Buffer} {j : Nat} (hbusy : s.busy = true) (h : b ≠ .rxb) :
    s.readByte b j = { s with hostRdata := Config.draw s.draws &&& 0xFF, draws := s.draws + 1 } := by
  unfold State.readByte
  split
  · exact (if_pos (Bool.and_eq_true_iff.mpr ⟨hbusy, bne_iff_ne.mpr h⟩)).trans (readDraw_byte s)
  · exact readDraw_byte s

end Reads

/-- Settles O41: with BUSY 0 only an unwritten byte is drawn. -/
theorem idleReads : Obligations.IdleReads := by
  intro s rest hidle
  refine ⟨fun r h => ?_, fun b j hj h => ⟨fun v hv => ?_, fun hnone => ?_⟩⟩
  · rw [step_readReg h, readReg_of_known (s := s.advance) (.inl hidle), ← advance_of_cons h]
    rfl
  · rw [step_readByte hj h, readByte_of_written (s := s.advance) (.inl hidle) hv, ← advance_of_cons h]
    rfl
  · rw [step_readByte hj h, readByte_of_unwritten (s := s.advance) hnone, ← advance_of_cons h]

/-! ## Accesses while BUSY = 1 (R216) -/

/-- A drawn word shows the register in the bits outside the mask. -/
theorem readDraw_getLsbD_known {known mask : Word} {i : Nat} (s : State) (hi : i < 32) (h : mask.getLsbD i = false) :
    (s.readDraw known mask).hostRdata.getLsbD i = known.getLsbD i := by
  simp [State.readDraw, hi, h, -BitVec.getLsbD_eq_getElem]

theorem readDraw_getLsbD_drawn {known mask : Word} {i : Nat} (s : State) (h : mask.getLsbD i = true) :
    (s.readDraw known mask).hostRdata.getLsbD i = (Config.draw s.draws).getLsbD i := by
  simp [State.readDraw, h, -BitVec.getLsbD_eq_getElem]

/-- A word all of whose bits are drawn is the draw. -/
theorem readDraw_all (s : State) (known : Word) :
    (s.readDraw known 0xFFFFFFFF).hostRdata = Config.draw s.draws := by
  show (known &&& ~~~BitVec.allOnes 32) ||| (Config.draw s.draws &&& BitVec.allOnes 32) = Config.draw s.draws
  rw [BitVec.not_allOnes, BitVec.and_zero, BitVec.zero_or, BitVec.and_allOnes]

theorem busyDrawMask_of_operand {r : Reg} (h : r ∈ [Reg.cmd, .rxLen, .encHdr, .crcOff, .crcLen]) :
    r.busyDrawMask = 0 := by
  simp only [List.mem_cons, List.not_mem_nil, or_false] at h
  rcases h with rfl | rfl | rfl | rfl | rfl <;> rfl

theorem busyDrawMask_of_result {r : Reg} (h : r ∉ [Reg.cmd, .status, .rxLen, .encHdr, .crcOff, .crcLen]) :
    r.busyDrawMask = 0xFFFFFFFF := by
  simp only [List.mem_cons, List.not_mem_nil, or_false, not_or] at h
  obtain ⟨hcmd, hstatus, hrxLen, hencHdr, hcrcOff, hcrcLen⟩ := h
  cases r with
  | cmd => exact absurd rfl hcmd
  | status => exact absurd rfl hstatus
  | rxLen => exact absurd rfl hrxLen
  | encHdr => exact absurd rfl hencHdr
  | crcOff => exact absurd rfl hcrcOff
  | crcLen => exact absurd rfl hcrcLen
  | _ => rfl

theorem statusDrawMask_drawn {i : Nat} (h : (4 ≤ i ∧ i ≤ 7) ∨ (9 ≤ i ∧ i ≤ 13)) : statusDrawMask.getLsbD i = true := by
  have drawn : ∀ j < 14, (4 ≤ j ∧ j ≤ 7) ∨ (9 ≤ j ∧ j ≤ 13) → statusDrawMask.getLsbD j = true := by decide
  exact drawn i (by omega) h

theorem readReg_frame (s : State) (r : Reg) :
    s.readReg r = { s with hostRdata := (s.readReg r).hostRdata, draws := (s.readReg r).draws } := by
  unfold State.readReg
  split <;> rfl

theorem handshake_done {s : State} (h : s.handshake) (hbusy : s.busy = true) : s.done = false := by
  obtain ⟨hpending, hcmd⟩ := h
  obtain ⟨w, hw⟩ := Option.isSome_iff_exists.mp (hpending ▸ hbusy)
  exact (hcmd w hw).2

/-- A read of STATUS while BUSY = 1: BUSY, DONE and OVERRUN are known, the bits of R216's mask are drawn. -/
theorem busyRead_status {s : State} (hshake : s.handshake) (hbusy : s.busy = true) :
    let t := s.readReg .status
    t.hostRdata.getLsbD 0 = true ∧ t.hostRdata.getLsbD 1 = false ∧ t.hostRdata.getLsbD 8 = s.overrun
      ∧ (∀ j, (4 ≤ j ∧ j ≤ 7) ∨ (9 ≤ j ∧ j ≤ 13) → t.hostRdata.getLsbD j = (Config.draw s.draws).getLsbD j)
      ∧ t.draws = s.draws + 1 := by
  obtain ⟨hb, hd, ho, -⟩ := statusWord_flags s
  rw [readReg_of_drawn (r := .status) hbusy (by decide)]
  have known : ∀ {i}, i < 32 → statusDrawMask.getLsbD i = false →
      (s.readDraw s.statusWord statusDrawMask).hostRdata.getLsbD i = s.statusWord.getLsbD i := fun hi hm =>
    readDraw_getLsbD_known s hi hm
  refine ⟨?_, ?_, ?_, fun j hj => readDraw_getLsbD_drawn s (statusDrawMask_drawn hj), rfl⟩
  · exact (known (by decide) (by decide)).trans (hb.trans hbusy)
  · exact (known (by decide) (by decide)).trans (hd.trans (handshake_done hshake hbusy))
  · exact (known (by decide) (by decide)).trans ho

/-- Settles O40: while BUSY = 1 a write only sets OVERRUN; a read of an operand register or a written RXB byte is known,
of STATUS in part, and every other read is a draw. -/
theorem busyAccesses : Obligations.BusyAccesses := by
  intro s rest hshake hbusy
  refine ⟨fun off n v hlegal h => ?_, fun r h => ?_, fun b j hj h => ⟨fun v hb hv => ?_, fun hdrawn => ?_⟩⟩
  · rw [step_write_of_busy hbusy hlegal h, ← advance_of_cons h]
  · refine ⟨_, step_readReg h, ?_, fun hr => ?_, ?_, fun hr => ?_⟩
    · rw [← advance_of_cons h]
      exact readReg_frame _ r
    · rw [readReg_of_known (s := s.advance) (.inr (busyDrawMask_of_operand hr))]
      exact ⟨by cases r <;> rfl, rfl⟩
    · rintro rfl
      exact busyRead_status (s := s.advance) hshake hbusy
    · have hmask := busyDrawMask_of_result hr
      rw [readReg_of_drawn (s := s.advance) hbusy (hmask ▸ by decide), hmask]
      exact ⟨readDraw_all _ _, rfl⟩
  · subst hb
    rw [step_readByte hj h, readByte_of_written (s := s.advance) (.inr rfl) hv, ← advance_of_cons h]
    rfl
  · have hread : s.advance.readByte b j
        = { s.advance with hostRdata := Config.draw s.draws &&& 0xFF, draws := s.draws + 1 } := by
      rcases hdrawn with hb | hnone
      · exact readByte_of_busy (s := s.advance) hbusy hb
      · exact readByte_of_unwritten (s := s.advance) hnone
    rw [step_readByte hj h, hread, ← advance_of_cons h]

/-! ## Writes while BUSY = 0 -/

/-- The four bytes of a word cover it. -/
theorem word_ext_bytes {v w : Word} (h0 : v.extractLsb' 0 8 = w.extractLsb' 0 8)
    (h8 : v.extractLsb' 8 8 = w.extractLsb' 8 8) (h16 : v.extractLsb' 16 8 = w.extractLsb' 16 8)
    (h24 : v.extractLsb' 24 8 = w.extractLsb' 24 8) : v = w := by
  simp only [← BitVec.toNat_inj, BitVec.extractLsb'_toNat] at *
  bv_omega

section Writes
variable (s : State) (v : Word)

theorem writeReg_of_readOnly {r : Reg} (h : r ∉ [Reg.cmd, .status, .rxLen, .plLen, .encHdr, .crcOff, .crcLen]) :
    s.writeReg r v = s := by
  simp only [List.mem_cons, List.not_mem_nil, or_false, not_or] at h
  obtain ⟨hcmd, hstatus, hrxLen, hplLen, hencHdr, hcrcOff, hcrcLen⟩ := h
  cases r with
  | cmd => exact absurd rfl hcmd
  | status => exact absurd rfl hstatus
  | rxLen => exact absurd rfl hrxLen
  | plLen => exact absurd rfl hplLen
  | encHdr => exact absurd rfl hencHdr
  | crcOff => exact absurd rfl hcrcOff
  | crcLen => exact absurd rfl hcrcLen
  | _ => rfl

/-- STATUS bit 8 is write-1-to-clear for OVERRUN (R25). -/
theorem writeReg_status : s.writeReg .status v = { s with overrun := s.overrun && !v.getLsbD 8 } := by
  rw [State.writeReg]
  cases v.getLsbD 8 <;> simp

theorem writeReg_encHdr_regWord : (s.writeReg .encHdr v).regWord .encHdr = v &&& 0x00FFFFFF := by
  obtain ⟨hid, hflags, hcsr, hres⟩ := encHdr_fields (s.writeReg .encHdr v)
  have kept : ∀ a, (0x00FFFFFF : Word).extractLsb' a 8 = BitVec.allOnes 8 →
      (v &&& 0x00FFFFFF).extractLsb' a 8 = v.extractLsb' a 8 := fun a ha => by
    rw [BitVec.extractLsb'_and, ha, BitVec.and_allOnes]
  have dropped : (v &&& 0x00FFFFFF).extractLsb' 24 8 = 0 := by
    rw [BitVec.extractLsb'_and, show (0x00FFFFFF : Word).extractLsb' 24 8 = 0 from rfl]
    exact BitVec.and_zero
  exact word_ext_bytes (hid.trans (kept 0 rfl).symm) (hflags.trans (kept 8 rfl).symm) (hcsr.trans (kept 16 rfl).symm)
    (hres.trans dropped.symm)

end Writes

/-- Settles O42: each writable register takes its own bits of the word, and no other stores anything. -/
theorem idleRegisterWrites : Obligations.IdleRegisterWrites := by
  intro s rest r v hidle h
  refine ⟨_, step_writeReg hidle h, ?_⟩
  rw [← advance_of_cons h]
  refine ⟨?_, ?_, ?_, ?_, ?_, ?_, ?_, fun hr => writeReg_of_readOnly _ v hr⟩ <;> rintro rfl
  · rfl
  · exact writeReg_status _ v
  · exact ⟨rfl, BitVec.extractLsb'_toNat ..⟩
  · exact ⟨rfl, BitVec.extractLsb'_toNat ..⟩
  · exact ⟨rfl, writeReg_encHdr_regWord _ v⟩
  · exact ⟨rfl, BitVec.extractLsb'_toNat ..⟩
  · exact ⟨rfl, BitVec.extractLsb'_toNat ..⟩

/-- Settles O43: RXB and PLB store the low byte at its offset, PLB clears PLVAL, TXB stores nothing. -/
theorem idleByteWrites : Obligations.IdleByteWrites := by
  intro s rest b j v hidle hj h
  refine ⟨_, step_writeByte hidle hj h, ?_⟩
  rw [← advance_of_cons h]
  cases b with
  | txb => exact ⟨by simp [State.writeByte], fun hne => absurd rfl hne, fun _ => rfl, fun _ _ => rfl⟩
  | rxb =>
    exact ⟨by simp [State.writeByte, State.writeBytes], fun _ => Memory.get_set_same .., nofun,
      fun a ha => Memory.get_set_ne _ _ ha⟩
  | plb =>
    exact ⟨by simp [State.writeByte, State.writeBytes], fun _ => Memory.get_set_same .., nofun,
      fun a ha => Memory.get_set_ne _ _ ha⟩

end Sys2Proof.Proofs
end

section
/-! PROOFS. Latency (R215): an access before the CODEC's turn changes no result, and a pending command completes when
the inputs are used up. -/

open Sys2Proof Sys2Proof.Machine

namespace Sys2Proof.Proofs

/-! ## What an access can change while BUSY = 1 -/

/-- s with OVERRUN, the last read value and the draw counter replaced: all that an access while BUSY = 1 can change. -/
def withHost (overrun : Bool) (rdata : Word) (draws : Nat) (s : State) : State :=
  { s with overrun := overrun, hostRdata := rdata, draws := draws }

theorem sameButHost_withHost (o : Bool) (v : Word) (d : Nat) (s : State) : s.sameButHost (withHost o v d s) := rfl

section BusyAccess
variable {s u : State}

theorem hostRead_of_busy {off : BitVec 12} {n : Nat} (h : hostRead off n s = .next u) :
    ∃ o v d, u = withHost o v d s := by
  unfold hostRead at h
  split at h
  · cases h
  · rename_i r _
    cases h
    exact ⟨s.overrun, _, _, readReg_frame s r⟩
  · cases h
    unfold State.readByte
    repeat' split
    all_goals exact ⟨s.overrun, _, _, rfl⟩

theorem hostWrite_of_busy_eq_next {off : BitVec 12} {n : Nat} {w : Word} (hbusy : s.busy = true)
    (h : hostWrite off n w s = .next u) : ∃ o v d, u = withHost o v d s := by
  by_cases hlegal : legalAccess off.toNat n
  · have hwrite := hostWrite_of_busy (v := w) hbusy hlegal
    rw [BitVec.ofNat_toNat, BitVec.setWidth_eq] at hwrite
    cases hwrite.symm.trans h
    exact ⟨true, s.hostRdata, s.draws, rfl⟩
  · cases (hostWrite_of_illegal hlegal).symm.trans h

theorem busAccess_of_busy {addr : Nat} {go : BitVec 12 → Result} (h : busAccess addr s go = .next u)
    (hgo : ∀ off, go off = .next u → ∃ o v d, u = withHost o v d s) : ∃ o v d, u = withHost o v d s := by
  unfold busAccess at h
  split at h
  · cases h
    exact ⟨s.overrun, s.hostRdata, s.draws, rfl⟩
  · exact hgo _ h

/-- A step that is a host access while BUSY = 1. -/
theorem step_access_of_busy {x : Input} {rest : List Input} (hbusy : s.busy = true) (hinputs : s.inputs = x :: rest)
    (hx : (∃ addr n, x = .read addr n) ∨ ∃ addr n v, x = .write addr n v) (h : step s = .next u) :
    ∃ o v d, u = withHost o v d s.advance := by
  rcases hx with ⟨addr, n, rfl⟩ | ⟨addr, n, w, rfl⟩
  · rw [step, hinputs] at h
    rw [← advance_of_cons hinputs]
    exact busAccess_of_busy h fun off h => hostRead_of_busy h
  · rw [step, hinputs] at h
    rw [← advance_of_cons hinputs]
    exact busAccess_of_busy h fun off h => hostWrite_of_busy_eq_next hbusy h

end BusyAccess

/-! ## What a command does of it

No command reads or writes the three fields, so replacing them before a command is replacing them after it. -/

/-- g on the next state, a fault or a refusal as it is. -/
def mapNext (g : State → State) : Result → Result
  | .next t => .next (g t)
  | .fault f => .fault f
  | .refused r => .refused r

theorem withRead_mapNext {α : Type} {g : State → State} {r : Except Fault α} {go go' : α → Result}
    (h : ∀ x, go' x = mapNext g (go x)) : withRead r go' = mapNext g (withRead r go) := by
  cases r with
  | error f => rfl
  | ok x => exact h x

section WithHost
variable (o : Bool) (v : Word) (d : Nat) (s : State)

theorem crcCommand_withHost (fn : List Byte → Word) :
    crcCommand fn (withHost o v d s) = mapNext (withHost o v d) (crcCommand fn s) := by
  rcases Nat.lt_or_ge Config.rxbSize (s.crcOff.toNat + s.crcLen.toNat) with hout | hin
  · rw [crcCommand_of_outside hout, crcCommand_of_outside (s := withHost o v d s) hout]
    rfl
  · rw [crcCommand_of_inside hin, crcCommand_of_inside (s := withHost o v d s) hin]
    exact withRead_mapNext fun _ => rfl

theorem execEncode_withHost (sel : BitVec 2) :
    execEncode sel (withHost o v d s) = mapNext (withHost o v d) (execEncode sel s) := by
  by_cases hpre : 2 ≤ sel.toNat ∨ s.plLen.toNat = 255
  · exact (encodePreconditionsFail sel (withHost o v d s) hpre).trans
      (congrArg (mapNext (withHost o v d)) (encodePreconditionsFail sel s hpre)).symm
  · rw [not_or, Nat.not_le] at hpre
    obtain ⟨hsel, hlen⟩ := hpre
    rw [execEncode_of_preconditions hsel hlen, execEncode_of_preconditions (s := withHost o v d s) hsel hlen]
    exact withRead_mapNext fun _ => rfl

theorem withFrame_withHost {fails fails' : DecodeError → Result} {found found' : SyncWord → Frame → Result}
    (hfails : ∀ e, fails' e = mapNext (withHost o v d) (fails e))
    (hfound : ∀ k f, found' k f = mapNext (withHost o v d) (found k f)) :
    withFrame (withHost o v d s) fails' found' = mapNext (withHost o v d) (withFrame s fails found) :=
  withRead_mapNext fun
    | .error e => hfails e
    | .ok (k, f) => hfound k f

theorem decodeWithCsr_withHost (csr : Byte) :
    decodeWithCsr csr (withHost o v d s) = mapNext (withHost o v d) (decodeWithCsr csr s) :=
  withFrame_withHost o v d s (fun _ => rfl) fun _ _ => rfl

theorem acceptFrame_withHost (k : SyncWord) (f : Frame) :
    acceptFrame k f (withHost o v d s) = mapNext (withHost o v d) (acceptFrame k f s) := by
  simp only [acceptFrame, apply_ite (mapNext (withHost o v d))]
  rfl

theorem decodePayloadAs_withHost (sc : Schema) :
    decodePayloadAs sc (withHost o v d s) = mapNext (withHost o v d) (decodePayloadAs sc s) := by
  by_cases hw : s.plLen.toNat = widthTable sc
  · rw [decodePayloadAs_of_plLen_eq hw, decodePayloadAs_of_plLen_eq (s := withHost o v d s) hw]
    exact withRead_mapNext fun _ => rfl
  · rw [decodePayloadAs_of_plLen_ne hw, decodePayloadAs_of_plLen_ne (s := withHost o v d s) hw]
    rfl

theorem dispatchCommitted_withHost (sc : Schema) :
    dispatchCommitted sc (withHost o v d s) = mapNext (withHost o v d) (dispatchCommitted sc s) := by
  cases hv : s.hvalid && s.tvalid with
  | false =>
    rw [dispatchCommitted_of_invalid sc hv, dispatchCommitted_of_invalid (s := withHost o v d s) sc hv]
    rfl
  | true =>
    obtain ⟨hh, ht⟩ := Bool.and_eq_true_iff.mp hv
    rw [dispatchCommitted_of_valid sc hh ht, dispatchCommitted_of_valid (s := withHost o v d s) sc hh ht]
    exact decodePayloadAs_withHost o v d s sc

theorem exec_withHost (i : Instr) : exec i (withHost o v d s) = mapNext (withHost o v d) (exec i s) := by
  cases i with
  | nop => rfl
  | crc8 => exact crcCommand_withHost o v d s _
  | crc32 => exact crcCommand_withHost o v d s _
  | encode sel => exact execEncode_withHost o v d s sel
  | decode => exact withFrame_withHost o v d s (fun _ => rfl) fun _ _ => rfl
  | decodePayload sel =>
    cases hsel : Schema.ofSel sel with
    | none =>
      rw [exec_decodePayload_of_reserved hsel, exec_decodePayload_of_reserved hsel]
      rfl
    | some sc =>
      rw [exec_decodePayload_of_schema hsel, exec_decodePayload_of_schema hsel]
      exact decodePayloadAs_withHost o v d s sc
  | decodeDispatch sel =>
    cases hsel : Schema.ofSel sel with
    | none =>
      rw [exec_decodeDispatch_of_reserved hsel, exec_decodeDispatch_of_reserved hsel]
      rfl
    | some sc =>
      rw [exec_decodeDispatch_of_schema hsel, exec_decodeDispatch_of_schema hsel]
      exact withFrame_withHost o v d s (fun _ => rfl) fun k f => dispatchCommitted_withHost o v d (s.commit k f) sc
  | requestCrc8 f => exact acceptFrame_withHost o v d s _ f
  | requestCrc32 f => exact acceptFrame_withHost o v d s _ f
  | responseCrc8 f => exact acceptFrame_withHost o v d s _ f
  | responseCrc32 f => exact acceptFrame_withHost o v d s _ f
  | deviceReg csr => exact decodeWithCsr_withHost o v d s csr
  | custom => exact decodeWithCsr_withHost o v d s _
  | configSize => exact decodeWithCsr_withHost o v d s _
  | configData => exact decodeWithCsr_withHost o v d s _
  | nodeId => exact decodeWithCsr_withHost o v d s _
  | groupId => exact decodeWithCsr_withHost o v d s _
  | deviceId => exact decodeWithCsr_withHost o v d s _
  | utility => exact decodeWithCsr_withHost o v d s _
  | reservedF csr => exact decodeWithCsr_withHost o v d s csr
  | motor => exact decodePayloadAs_withHost o v d s _
  | light => exact decodePayloadAs_withHost o v d s _
  | bam => exact decodePayloadAs_withHost o v d s _

theorem codecStep_withHost : codecStep (withHost o v d s) = mapNext (withHost o v d) (codecStep s) := by
  cases hp : s.pending with
  | none =>
    rw [codecStep_of_not_pending hp, codecStep_of_not_pending (s := withHost o v d s) hp]
    rfl
  | some w =>
    cases hd : decodeCmd w with
    | ok i =>
      rw [codecStep_command hp hd, codecStep_command (s := withHost o v d s) hp hd]
      exact exec_withHost o v d s i
    | error r =>
      rw [codecStep_bad hp hd, codecStep_bad (s := withHost o v d s) hp hd]
      rfl

end WithHost

/-- The CODEC's turn is never refused. -/
theorem codecStep_next_or_fault (s : State) : (∃ t, codecStep s = .next t) ∨ ∃ f, codecStep s = .fault f := by
  cases hp : s.pending with
  | none => exact .inl ⟨_, codecStep_of_not_pending hp⟩
  | some w =>
    cases hd : decodeCmd w with
    | ok i =>
      rw [codecStep_command hp hd]
      exact (onlyUnwrittenReadsStop i s).imp_right fun ⟨b, j, h, _⟩ => ⟨_, h⟩
    | error r => exact .inl ⟨_, codecStep_bad hp hd⟩

/-- Settles O44: the access replaces the three fields that no command reads or writes. -/
theorem latencyDoesNotChangeResults : Obligations.LatencyDoesNotChangeResults := by
  intro s u x rest hbusy hx h
  let s' : State := { s with inputs := rest }
  obtain ⟨o, v, d, rfl⟩ := step_access_of_busy (s := { s with inputs := x :: .codec :: rest }) hbusy rfl hx h
  have before : step { s with inputs := .codec :: rest } = codecStep s' := rfl
  have after : step (withHost o v d { s with inputs := .codec :: rest }) = mapNext (withHost o v d) (codecStep s') :=
    codecStep_withHost o v d s'
  rcases codecStep_next_or_fault s' with ⟨t, ht⟩ | ⟨f, hf⟩
  · exact .inl ⟨_, t, after.trans (congrArg _ ht), before.trans ht, sameButHost_withHost o v d t⟩
  · exact .inr ⟨f, after.trans (congrArg _ hf), before.trans hf⟩

/-! ## The end of the inputs -/

section Run
variable {s t : State}

theorem writeReg_inputs (s : State) (r : Reg) (v : Word) : (s.writeReg r v).inputs = s.inputs := by
  cases r with
  | status => rw [writeReg_status]
  | _ => rfl

theorem moves_inputs (h : Moves s t) : t.inputs = s.inputs := by
  cases h with
  | runs w i e u _ _ hw =>
    obtain ⟨-, -, -, -, -, -, -, -, hinputs, -⟩ := writes_operands hw
    exact hinputs
  | writesReg r v => exact writeReg_inputs s r v
  | writesByte b => cases b <;> rfl
  | _ => rfl

/-- Every step takes one input away. -/
theorem step_inputs (h : step s = .next t) : t.inputs = s.inputs.tail :=
  moves_inputs (step_eq_next h)

/-- After the CODEC's turn nothing is pending. -/
theorem codecStep_pending (h : codecStep s = .next t) : t.pending = none := by
  cases hp : s.pending with
  | none =>
    cases (codecStep_of_not_pending hp).symm.trans h
    exact hp
  | some w =>
    cases hd : decodeCmd w with
    | ok i =>
      obtain ⟨-, -, hpending⟩ := everyCommandEnds i s t ((codecStep_command hp hd).symm.trans h)
      exact hpending
    | error r =>
      cases (codecStep_bad hp hd).symm.trans h
      rfl

/-- A run that does not stop makes its first step and goes on, whatever the machine. -/
theorem run_succ_eq_next {M : Host.Core} {n : Nat} {a b : M.State} (h : M.run (n + 1) a = .next b) :
    ∃ c, M.step a = .next c ∧ M.run n c = .next b := by
  rw [Host.Core.run] at h
  split at h
  · rename_i u hu
    exact ⟨u, hu, h⟩
  · cases h
  · cases h

end Run

/-- Settles O45: each step takes an input away and keeps the handshake, and the step after the last is the CODEC's. -/
theorem pendingCommandsComplete : Obligations.PendingCommandsComplete := by
  intro s t hshake h
  generalize hn : s.inputs.length = n at h
  induction n generalizing s with
  | zero =>
    have hnil := List.length_eq_zero_iff.mp hn
    obtain ⟨u, hu, hend⟩ := run_succ_eq_next (M := Sys2Proof.core) h
    cases hend
    have hpending : t.pending = none := codecStep_pending ((step_codecTurn (.inl hnil)).symm.trans hu)
    obtain ⟨hbusy, -⟩ := stepKeepsHandshake s t hshake hu
    exact ⟨by rw [hbusy, hpending]; rfl, hpending, by rw [step_inputs hu, hnil]; rfl⟩
  | succ n ih =>
    obtain ⟨u, hu, hrest⟩ := run_succ_eq_next (M := Sys2Proof.core) h
    refine ih u (stepKeepsHandshake s u hshake hu) ?_ hrest
    rw [step_inputs hu, List.length_tail, hn, Nat.add_sub_cancel]

end Sys2Proof.Proofs
end
